-- ==== Sys2Proof/Word.lean ====
section
/-! DEFINITION. The widths of PCRAW's registers and memory elements
(spec 10_state.md, 20_memory.md R40 to R44). -/

namespace Sys2Proof

/-- A byte of FILE, a command byte, an 8-bit register. -/
abbrev Byte := BitVec 8

/-- A header geometry field, a sample, a ChannelImage element (R6, R70). -/
abbrev U16 := BitVec 16

/-- FILE_LEN, BLOCK_BASE, BLOCK_SIZE (R6). -/
abbrev U32 := BitVec 32

/-- An RGBImage element: the 17-bit number `q` stands for `q / 2` (R44, R70). -/
abbrev Q16 := BitVec 17

end Sys2Proof
end

