-- ==== Sys2Proof/Syntax.lean ====
section
/-! DEFINITION. The command set of PCRAW (spec 30_encoding.md R72, spec/opcode_table.json):
one constructor per row. No command has an operand field (R71). -/

namespace Sys2Proof

/-- The six commands of R72. -/
inductive Instr where
  | locate   -- LOCATE, R82
  | parse    -- PARSE, R92
  | unpack   -- UNPACK, R109
  | to3d     -- TO3D, R122
  | torgb    -- TORGB, R127
  | decode   -- DECODE, R146
deriving DecidableEq, Repr

end Sys2Proof
end

