-- ==== Sys2Proof/Decode.lean ====
section
/-! DEFINITION. The command byte: its fields, the decoder and the encoder
(spec 30_encoding.md R71 to R73, spec/opcode_table.json). -/

namespace Sys2Proof

/-- Why a byte is no command (R73): a bit of the `zero` field is set, or `op` is 000 or 111. Both
are the cause IllegalCommand when the byte is written to CMD. -/
inductive DecodeError where
  | zeroFieldSet
  | opUnassigned
deriving DecidableEq, Repr

/-- Bits 7..3, which must be 0 (R71). -/
def zeroField (c : Byte) : BitVec 5 := c.extractLsb' 3 5

/-- Bits 2..0, the operation (R71). -/
def opField (c : Byte) : BitVec 3 := c.extractLsb' 0 3

/-- The operation an `op` field names (R72). -/
def opInstr (op : BitVec 3) : Except DecodeError Instr :=
  match op.toNat with
  | 1 => .ok .locate
  | 2 => .ok .parse
  | 3 => .ok .unpack
  | 4 => .ok .to3d
  | 5 => .ok .torgb
  | 6 => .ok .decode
  | _ => .error .opUnassigned

/-- The command a byte written to CMD encodes (R71 to R73), total on bytes. -/
def decode (c : Byte) : Except DecodeError Instr :=
  if zeroField c = 0 then opInstr (opField c) else .error .zeroFieldSet

/-- The command of an instruction word as spec/opcode_table.json numbers its bits. Every row has
one byte; a number that is not one byte is no command. -/
def decodeTableWord (nbits w : Nat) : Option Instr :=
  if nbits = 8 ∧ w < 256 then
    match decode (BitVec.ofNat 8 w) with
    | .ok i => some i
    | .error _ => none
  else none

/-- The `op` field of a command (R72). -/
def opOf : Instr → BitVec 3
  | .locate => 0b001
  | .parse => 0b010
  | .unpack => 0b011
  | .to3d => 0b100
  | .torgb => 0b101
  | .decode => 0b110

/-- The command byte of an instruction: five zero bits, then `op` (R71). -/
def encode (i : Instr) : Byte := (0#5) ++ opOf i

end Sys2Proof
end

