-- ==== Sys2Proof/Config.lean ====
section
/-! DEFINITION. The identity of PCRAW (spec 00_scope.md R1) and what an implementation of it fixes:
the block-size table (R5, 92_eei_decisions.md D6). -/

namespace Sys2Proof

/-- CameraVariant: VARIANT 0 is variant A, 1 is variant B (R11, R75). -/
inductive Variant where
  | a
  | b
deriving DecidableEq, Repr

namespace Config

/-- The identity a model carries: a name and a source (R1). -/
structure Identity where
  name : String
  source : String
deriving DecidableEq, Repr

/-- The pair (name PCRAW, source PCR). There is no part number, ISA string or version register, and
no register reads this (R1). -/
def identity : Identity where
  name := "PCRAW"
  source := "PCR"

/-- A present entry of the block-size table. R5 asks `32768 ≤ s < 2^32` of every present entry:
the range is part of the entry, so an ill-formed configuration cannot be written down
(93_implementation_defined.md V7, log 3). -/
structure TableEntry where
  size : U32
  inRange : 32768 ≤ size.toNat
deriving DecidableEq, Repr

/-- BLOCK_SIZE(v, m) for modes 0 to 7, an absent entry being `none`. Modes 8 to 255 never have an
entry (R5), so the table has no place for them. -/
abbrev BlockSizeTable := Variant → Fin 8 → Option TableEntry

/-- The fourteen OPEN entries (R5, D6): nothing is known of them but that a present one is in
range. Only modes 1 to 7 are read from here. DESIGN CHOICE, safe: log 3. -/
opaque openEntry : BlockSizeTable

end Config
end Sys2Proof
end

