-- ==== Sys2Proof/Machine/Transaction.lean ====
section
/-! DEFINITION. What the host can do to PCRAW (spec 44_decode.md R141 to R147, 10_state.md R26,
70_reset_and_hazards.md R170). Operands that the spec lets be wrong (93_implementation_defined.md
V6) are naturals, so that a wrong one can be written down and refused. -/

namespace Sys2Proof.Machine

/-- One element of a memory space, as R40 addresses it. -/
inductive MemAddr where
  | file (addr : Nat)
  | grid (row col : Nat)
  | ch3 (row col ch : Nat)
  | rgb (row col ch : Nat)
deriving DecidableEq, Repr

/-- A host transaction. A register number is a natural number of any size: R26 states no width for
it, and every number that its table does not list is reserved (DESIGN CHOICE, log 9). -/
inductive HostTransaction where
  /-- H_LOADFILE(bytes), R141. -/
  | loadFile (bytes : List Byte)
  /-- H_SETPARAM(v, m), R142. -/
  | setParam (v : Variant) (m : Byte)
  /-- H_LOADGRID(H, W, o, samples), R143. -/
  | loadGrid (h w order : Nat) (samples : List U16)
  /-- H_SETORDER(o), R144. -/
  | setOrder (order : Nat)
  /-- The write of a byte to CMD, R21. -/
  | writeCmd (c : Byte)
  /-- A register write by number (R26, R76; VARIANT and MODE written singly, R142). -/
  | writeReg (number value : Nat)
  /-- H_READ of a register by number; `index` is the second operand of the array registers
  HDR_NAME and HDR_RSVD, and 0 for any other register (R26, R145). -/
  | readReg (number index : Nat)
  /-- H_READ of one memory element (R40, R145). -/
  | readMem (addr : MemAddr)
  /-- Reset, an event of the host (R170). -/
  | reset
deriving DecidableEq, Repr

/-- What a transaction gives the host back (R147). -/
inductive HostReply where
  /-- The value H_READ returns. -/
  | value (n : Nat)
  /-- ERR, ERR_DIM and ERR_VAL when a CMD write returns. -/
  | result (err : Byte) (dim : BitVec 1) (val : U16)
deriving DecidableEq, Repr

end Sys2Proof.Machine
end

