-- ==== Sys2Proof/Machine/State.lean ====
section
/-! DEFINITION. The state of one PCRAW instance (spec 10_state.md R10 to R28, R33, R34), its reset
value, and the reasons a step can stop. -/

namespace Sys2Proof.Machine

/-- ColorFilterArrayOrder: the four Bayer layouts (R17, R65, R66). -/
inductive CfaOrder where
  | rggb
  | gbrg
  | bggr
  | grbg
deriving DecidableEq, Repr

/-- The bytes of FILE that are not zero, as (address, byte) pairs (log 1). -/
abbrev Memory := List Host.Cell

/-- What an address that no entry lists reads as, below FILE_LEN (log 1). -/
def Memory.unlisted : Byte := 0

/-- The canonical form: addresses strictly rising, each below `len`, and no entry equal to what an
unlisted address reads as. -/
def Memory.wf (len : Nat) (m : Memory) : Bool :=
  decide (m.Pairwise fun x y => x.1 < y.1) &&
    m.all fun c => decide (c.1 < len) && decide (c.2 ≠ Memory.unlisted)

/-- FILE_LEN and the FILE memory (R13, R41). -/
structure FileImage where
  len : U32
  cells : Memory
deriving DecidableEq, Repr

/-- BLOCK_BASE and BLOCK_SIZE, pointers into FILE (R15). -/
structure Block where
  base : U32
  size : U32
deriving DecidableEq, Repr

/-- The RawHeader registers and HDR_ORDER (R16, R17). -/
structure RawHeader where
  name : Vector Byte 32
  width : U16
  height : U16
  padRight : U16
  padDown : U16
  rsvd : Vector Byte 24
  transform : U16
  format : U16
  cfaCode : Byte
  bitFormat : Byte
  order : CfaOrder
deriving DecidableEq, Repr

/-- GRID_H, GRID_W, GRID_ORDER and the GRID memory, row-major (R18, R40, R42). -/
structure Grid where
  h : U16
  w : U16
  order : CfaOrder
  samples : List U16
deriving DecidableEq, Repr

/-- CH3_H, CH3_W and the CH3 memory, linear index `(row * CH3_W + col) * 3 + ch` (R19, R40, R43). -/
structure ChannelImage where
  h : U16
  w : U16
  elems : List U16
deriving DecidableEq, Repr

/-- RGB_H, RGB_W and the RGB memory, linear index `(row * RGB_W + col) * 3 + ch` (R20, R40, R44). -/
structure RgbImage where
  h : U16
  w : U16
  elems : List Q16
deriving DecidableEq, Repr

/-- The state record of R10. A product is present exactly when its valid flag of STATUS is 1;
VARIANT and MODE hold no value until the host writes them (R33, R34). `script` and `hostReply` are
the model's own: the host's transactions still to come, and what the last one gave back
(logs 4 and 5). -/
structure State where
  variant : Option Variant
  mode : Option Byte
  file : Option FileImage
  block : Option Block
  hdr : Option RawHeader
  grid : Option Grid
  ch3 : Option ChannelImage
  rgb : Option RgbImage
  err : Byte
  errDim : BitVec 1
  errVal : U16
  fault : Bool
  script : List HostTransaction
  hostReply : Option HostReply
deriving DecidableEq, Repr

/-- Why the block itself stops. PCRAW never stops (R148): both are raised only in states that no
run reaches (log 7). -/
inductive Fault where
  /-- PARSE, UNPACK or DECODE would read FILE outside `0 .. FILE_LEN-1` (R8, R40). Safe: the rules
  establish the bound before every read. -/
  | fileOutOfRange
  /-- TO3D or TORGB would read GRID outside its `GRID_H * GRID_W` elements, the list of samples
  having another length (R40). Safe: UNPACK and H_LOADGRID write exactly that many. -/
  | gridOutOfRange
deriving DecidableEq, Repr

/-- Why a transaction is refused. Each is one the spec itself refuses, or an access it gives no
meaning; all are safe: nothing can be proved from a refused transaction. -/
inductive Refusal where
  /-- An instruction without a meaning; raised by no arm of `exec`. -/
  | notModelled (mnemonic : String)
  /-- H_READ of a register or element that holds no value, which R33 says a model must treat as a
  refusal and never as zero or an old value (R33, R145; 93_implementation_defined.md V4). -/
  | readOfNoValue
  /-- H_READ of CMD, which is write-only (R21, R33). -/
  | readOfWriteOnly
  /-- An access to a register number that R26 does not list (R26, R33). -/
  | reservedRegister
  /-- H_READ of an address outside its space or its array register (R40). -/
  | elementOutOfRange
  /-- A write to a register that R26 gives the host no write to (log 9). -/
  | writeOfReadOnly
  /-- A register write whose value does not fit the register's width (log 9). -/
  | valueTooWide
  /-- H_LOADFILE of 2^32 bytes or more (R141, V6). -/
  | fileTooLong
  /-- H_LOADGRID with a height or width above 65535 (R143, V6). -/
  | gridTooLarge
  /-- H_LOADGRID with a list whose length is not `H * W` (R143, V6). -/
  | sampleCountWrong
  /-- H_LOADGRID or H_SETORDER with an order above 3 (R143, R144, V6). -/
  | orderOutOfRange
  /-- H_SETORDER while GRID_VALID = 0 (R144). -/
  | noGridToOrder
deriving DecidableEq, Repr

/-- The machine right after reset (R34, R170): nothing is valid, nothing is recorded. -/
def State.reset : State where
  variant := none
  mode := none
  file := none
  block := none
  hdr := none
  grid := none
  ch3 := none
  rgb := none
  err := 0x00
  errDim := 0
  errVal := 0x0000
  fault := false
  script := []
  hostReply := none

end Sys2Proof.Machine
end

