-- ==== Sys2Proof/Machine/Flags.lean ====
section
/-! DEFINITION. The valid flags, FAULT and STATUS (spec 10_state.md R22, R25, R35), and the codes
ERR takes (60_exceptions.md R150 to R152). PCRAW has no arithmetic flags (R35). -/

namespace Sys2Proof.Machine

/-- FILE_VALID: a product is present exactly when its flag is 1 (R10, R22). -/
def fileValid (s : State) : Bool := s.file.isSome

/-- BLOCK_VALID (R22). -/
def blockValid (s : State) : Bool := s.block.isSome

/-- HDR_VALID (R22). -/
def hdrValid (s : State) : Bool := s.hdr.isSome

/-- GRID_VALID (R22). -/
def gridValid (s : State) : Bool := s.grid.isSome

/-- CH3_VALID (R22). -/
def ch3Valid (s : State) : Bool := s.ch3.isSome

/-- RGB_VALID (R22). -/
def rgbValid (s : State) : Bool := s.rgb.isSome

/-- STATUS, bit 7 first: FAULT, the reserved 0, RGB_VALID, CH3_VALID, GRID_VALID, HDR_VALID,
BLOCK_VALID, FILE_VALID (R22). -/
def status (s : State) : Byte :=
  BitVec.ofBool s.fault ++ 0#1 ++ BitVec.ofBool (rgbValid s) ++ BitVec.ofBool (ch3Valid s) ++
    BitVec.ofBool (gridValid s) ++ BitVec.ofBool (hdrValid s) ++ BitVec.ofBool (blockValid s) ++
    BitVec.ofBool (fileValid s)

/-- The dimension an UnevenDimensionError names (R24, R124). -/
inductive Dimension where
  | width
  | height
deriving DecidableEq, Repr

/-- ERR_DIM: 0 = width, 1 = height (R24, R75). -/
def Dimension.code : Dimension → BitVec 1
  | .width => 0
  | .height => 1

/-- The error causes of R151; UnevenDimensionError carries the one payload (R24). -/
inductive Cause where
  | unknownSensorMode
  | malformedContainer
  | blockMissing
  | unrecognizedCfaCode
  | invalidRowWidth
  | unevenDimension (dim : Dimension) (value : U16)
  | blockSizeMismatch
  | sequenceError
  | illegalCommand
deriving DecidableEq, Repr

/-- The kinds of R150: four named by the source, and this spec's own two causes standing each for
itself. -/
inductive Kind where
  | unsupportedMode
  | containerFormat
  | headerDecode
  | geometry
  | ownSequence
  | ownIllegal
deriving DecidableEq, Repr

/-- The code a cause leaves in ERR (R151); `0x00` is success. -/
def causeCode : Cause → Byte
  | .unknownSensorMode => 0x10
  | .malformedContainer => 0x20
  | .blockMissing => 0x21
  | .unrecognizedCfaCode => 0x30
  | .invalidRowWidth => 0x40
  | .unevenDimension _ _ => 0x41
  | .blockSizeMismatch => 0x42
  | .sequenceError => 0xE0
  | .illegalCommand => 0xF0

/-- The kind of a cause (R150 to R152, 90_conflicts.md C2). -/
def causeKind : Cause → Kind
  | .unknownSensorMode => .unsupportedMode
  | .malformedContainer => .containerFormat
  | .blockMissing => .containerFormat
  | .unrecognizedCfaCode => .headerDecode
  | .invalidRowWidth => .geometry
  | .unevenDimension _ _ => .geometry
  | .blockSizeMismatch => .geometry
  | .sequenceError => .ownSequence
  | .illegalCommand => .ownIllegal

/-- The high nibble that stands for a kind (R151). -/
def kindNibble : Kind → BitVec 4
  | .unsupportedMode => 0x1
  | .containerFormat => 0x2
  | .headerDecode => 0x3
  | .geometry => 0x4
  | .ownSequence => 0xE
  | .ownIllegal => 0xF

/-- What a cause records in ERR_DIM (R24, R151). -/
def causeDim : Cause → BitVec 1
  | .unevenDimension dim _ => dim.code
  | _ => 0

/-- What a cause records in ERR_VAL (R24, R151). -/
def causeVal : Cause → U16
  | .unevenDimension _ value => value
  | _ => 0

end Sys2Proof.Machine
end

