-- ==== Sys2Proof/Machine/Operands.lean ====
section
/-! DEFINITION. How a command's implicit operands are formed: FILE bytes and their assembly
(spec 20_memory.md R45, R48; 30_encoding.md R60 to R64), codes (R65, R75), the Bayer tile (R66,
R120), the padded geometry (00_scope.md R9; 42_sample_unpacker.md R101 to R103) and the 5-byte group
(R68, R69). Every quantity is a natural number, unsigned and never wrapping (R7). -/

namespace Sys2Proof.Machine

/-! ## FILE bytes -/

/-- The byte at address `a` of a memory: its entry, or what an unlisted address reads as. -/
def Memory.read : Memory → Nat → Byte
  | [], _ => Memory.unlisted
  | (k, v) :: rest, a => if a = k then v else Memory.read rest a

/-- The cells of a list of bytes laid from address `a` up, in canonical form. -/
def Memory.ofBytes : Nat → List Byte → Memory
  | _, [] => []
  | a, v :: rest =>
    if v = Memory.unlisted then Memory.ofBytes (a + 1) rest
    else (a, v) :: Memory.ofBytes (a + 1) rest

/-- FILE[a], for an address below FILE_LEN (R41). -/
def FileImage.byte (f : FileImage) (a : Nat) : Byte := f.cells.read a

/-- The file a host supplies (R141): FILE_LEN is its length. -/
def FileImage.ofBytes (bytes : List Byte) : FileImage where
  len := BitVec.ofNat 32 bytes.length
  cells := Memory.ofBytes 0 bytes

/-- Block byte `k` is FILE[BLOCK_BASE + k] (R60, R64). -/
def blockByte (f : FileImage) (b : Block) (k : Nat) : Byte := f.byte (b.base.toNat + k)

/-- Whether the first `n` block bytes lie inside FILE: the bound MemRead asks for (R8). -/
def blockInFile (f : FileImage) (b : Block) (n : Nat) : Bool :=
  decide (b.base.toNat + n ≤ f.len.toNat)

/-- The 16-bit value whose low byte is `b0`, the byte at the lower address (R8, R45). -/
def le16 (b0 b1 : Byte) : U16 := b0.setWidth 16 ||| (b1.setWidth 16 <<< 8)

/-- The two-byte header field at block offset `o` (R64). -/
def field16 (bytes : Nat → Byte) (o : Nat) : U16 := le16 (bytes o) (bytes (o + 1))

/-- The `n` bytes from block offset `o` up, as an array register (R63). -/
def byteArray (bytes : Nat → Byte) (o n : Nat) : Vector Byte n :=
  ⟨((List.range n).map fun i => bytes (o + i)).toArray, by simp⟩

/-! ## Fixed constants (R4) -/

/-- Block bytes 0..3 of a well-marked block: ASCII `BRCM` (R4, R62). -/
def marker : List Byte := [0x42, 0x52, 0x43, 0x4D]

/-- The block offset of the RawHeader (R4). -/
def headerOffset : Nat := 176

/-- The size of the RawHeader (R4). -/
def headerSize : Nat := 70

/-- The block offset of the pixel-data region (R4). -/
def pixelOffset : Nat := 32768

/-! ## Codes -/

/-- VARIANT as the host reads it (R11, R75). -/
def variantCode : Variant → BitVec 1
  | .a => 0
  | .b => 1

/-- The variant a one-bit code names; no other number fits the register (R11, R75). -/
def variantOfCode (n : Nat) : Option Variant :=
  match n with
  | 0 => some .a
  | 1 => some .b
  | _ => none

/-- HDR_ORDER and GRID_ORDER as the host reads them (R17, R18, R75). -/
def orderCode : CfaOrder → BitVec 2
  | .rggb => 0
  | .gbrg => 1
  | .bggr => 2
  | .grbg => 3

/-- The order a number 0..3 names; 4 and up name none (R65, R75). -/
def orderOfCode (n : Nat) : Option CfaOrder :=
  match n with
  | 0 => some .rggb
  | 1 => some .gbrg
  | 2 => some .bggr
  | 3 => some .grbg
  | _ => none

/-- `cfa_order(c)`: the whole byte is compared (R65, R91). -/
def cfaOrder (code : Byte) : Option CfaOrder := orderOfCode code.toNat

/-! ## The Bayer tile -/

/-- The colour of a photosite (R66). -/
inductive Colour where
  | red
  | green
  | blue
deriving DecidableEq, Repr

/-- The output channel of a colour (R40, R66). -/
def Colour.chan : Colour → Nat
  | .red => 0
  | .green => 1
  | .blue => 2

/-- The colours at (0,0), (0,1), (1,0), (1,1): the letters of the name, row-major (R66, log 15). -/
def tileColours : CfaOrder → Colour × Colour × Colour × Colour
  | .rggb => (.red, .green, .green, .blue)
  | .gbrg => (.green, .blue, .red, .green)
  | .bggr => (.blue, .green, .green, .red)
  | .grbg => (.green, .red, .blue, .green)

/-- The colour of grid position `(r, c)` (R66, R120). -/
def colour (o : CfaOrder) (r c : Nat) : Colour :=
  match tileColours o with
  | (c00, c01, c10, c11) =>
    if r % 2 = 0 then (if c % 2 = 0 then c00 else c01) else (if c % 2 = 0 then c10 else c11)

/-- The output channel of grid position `(r, c)` (R120). -/
def chan (o : CfaOrder) (r c : Nat) : Nat := (colour o r c).chan

/-- The tile offset of the red position (R66, R120). -/
def redAt : CfaOrder → Nat × Nat
  | .rggb => (0, 0)
  | .gbrg => (1, 0)
  | .bggr => (1, 1)
  | .grbg => (0, 1)

/-- The tile offset of the first green position (R66, R120). -/
def green1At : CfaOrder → Nat × Nat
  | .rggb => (0, 1)
  | .gbrg => (0, 0)
  | .bggr => (0, 1)
  | .grbg => (0, 0)

/-- The tile offset of the second green position (R66, R120). -/
def green2At : CfaOrder → Nat × Nat
  | .rggb => (1, 0)
  | .gbrg => (1, 1)
  | .bggr => (1, 0)
  | .grbg => (1, 1)

/-- The tile offset of the blue position (R66, R120). -/
def blueAt : CfaOrder → Nat × Nat
  | .rggb => (1, 1)
  | .gbrg => (0, 1)
  | .bggr => (0, 0)
  | .grbg => (1, 0)

/-! ## Padded geometry -/

/-- The least multiple of `m` that is not less than `x` (R9). -/
def padToMultiple (x m : Nat) : Nat := ((x + m - 1) / m) * m

/-- `width_padded`, in samples (R101). -/
def widthPadded (h : RawHeader) : Nat := padToMultiple (h.width.toNat + h.padRight.toNat) 32

/-- `height_padded`, in rows (R101). -/
def heightPadded (h : RawHeader) : Nat := padToMultiple (h.height.toNat + h.padDown.toNat) 16

/-- The byte row width (stride) of a padded row, the formula as written (R102, R174). -/
def strideOf (wp : Nat) : Nat := ((wp * 5) + 3) / 4

/-- The crop bytes of a row of `w` samples, the formula as written (R103, R174). -/
def cropOf (w : Nat) : Nat := (w * 5) / 4

/-- `brw` of a header (R102). -/
def byteRowWidth (h : RawHeader) : Nat := strideOf (widthPadded h)

/-- `cb` of a header (R103). -/
def cropBytes (h : RawHeader) : Nat := cropOf h.width.toNat

/-- The block size the geometry asks for, `32768 + hp * brw` (R105). -/
def geometrySize (h : RawHeader) : Nat := pixelOffset + heightPadded h * byteRowWidth h

/-! ## The 5-byte group -/

/-- Five consecutive stored bytes `[b0, b1, b2, b3, b4]` (R68). -/
structure ByteGroup where
  b0 : Byte
  b1 : Byte
  b2 : Byte
  b3 : Byte
  b4 : Byte
deriving DecidableEq, Repr

/-- The sample of lane `i`: `(zext_16(b_i) << 2) | ((b4 >> (2*(3-i))) & 0b11)` (R68, R107). -/
def laneSample (b b4 : Byte) (i : Nat) : U16 :=
  (b.setWidth 16 <<< 2) ||| ((b4 >>> (2 * (3 - i))) &&& 0b11).setWidth 16

/-- The byte of a group that holds the eight high bits of lane `i` (R68). -/
def ByteGroup.high (g : ByteGroup) (i : Nat) : Byte :=
  match i with
  | 0 => g.b0
  | 1 => g.b1
  | 2 => g.b2
  | _ => g.b3

/-- `s_i` of a group, for `i` in 0..3 (R107). -/
def ByteGroup.sample (g : ByteGroup) (i : Nat) : U16 := laneSample (g.high i) g.b4 i

/-- The five bytes from block offset `o` up (R67, R68). -/
def groupAt (bytes : Nat → Byte) (o : Nat) : ByteGroup :=
  ⟨bytes o, bytes (o + 1), bytes (o + 2), bytes (o + 3), bytes (o + 4)⟩

/-- The inverse packing (R69); PCRAW has no command for it, the round trip is stated with it. -/
def packGroup (s0 s1 s2 s3 : U16) : ByteGroup where
  b0 := s0.extractLsb' 2 8
  b1 := s1.extractLsb' 2 8
  b2 := s2.extractLsb' 2 8
  b3 := s3.extractLsb' 2 8
  b4 := s0.extractLsb' 0 2 ++ s1.extractLsb' 0 2 ++ s2.extractLsb' 0 2 ++ s3.extractLsb' 0 2

end Sys2Proof.Machine
end

