-- ==== Sys2Proof/Machine/Ops.lean ====
section
/-! DEFINITION. The operations the commands share: the block-size lookup (spec 40_locator.md R80),
error entry and the successful end of a command (60_exceptions.md R156 to R159), the composition of
stages, and the row-major memories (20_memory.md R40). -/

namespace Sys2Proof.Machine

/-! ## The block-size table -/

/-- The two entries the spec fixes, mode 0 of each variant (R5). -/
def documentedEntry : Variant → Config.TableEntry
  | .a => ⟨6404096, by decide⟩
  | .b => ⟨10270208, by decide⟩

/-- The table of this machine: mode 0 as documented, modes 1 to 7 open (R5, log 3). -/
def blockSizeTable : Config.BlockSizeTable := fun v m =>
  if m = 0 then some (documentedEntry v) else Config.openEntry v m

/-- `block_size(v, m)`: absent for every mode above 7 (R5, R80). -/
def blockSize (table : Config.BlockSizeTable) (v : Variant) (m : Byte) : Option U32 :=
  if h : m.toNat < 8 then (table v ⟨m.toNat, h⟩).map (·.size) else none

/-! ## Error entry and the end of a command -/

/-- `raise E(info)`: ERR, the payload, FAULT, and nothing else (R158). There is no handler, nothing
is saved, and no operation returns from it (R159): PCRAW is ready for the next transaction. -/
def raise (c : Cause) (s : State) : State :=
  { s with err := causeCode c, errDim := causeDim c, errVal := causeVal c, fault := true }

/-- The successful end of a command: ERR OK, payload 0, FAULT as it was (R23 to R25). -/
def succeed (s : State) : State :=
  { s with err := 0x00, errDim := 0, errVal := 0 }

/-- How the body of a stage ends: with its product, with a cause (the clears made so far stand,
R157), or stuck. The state still holds the ERR of before the command. -/
inductive Stage (α : Type) where
  | done (product : α) (s : State)
  | raised (c : Cause) (s : State)
  | stuck (f : Fault)

/-- The next stage of a composite command runs only if the one before succeeded (R146, R160). -/
def andThen {α β : Type} (x : Stage α) (k : α → State → Stage β) : Stage β :=
  match x with
  | .done a s => k a s
  | .raised c s => .raised c s
  | .stuck f => .stuck f

/-- The end of a command: ERR is written exactly once (R23). -/
def finish {α : Type} (x : Stage α) : Host.Outcome State Fault Refusal :=
  match x with
  | .done _ s => .next (succeed s)
  | .raised c s => .next (raise c s)
  | .stuck f => .fault f

/-- A command refused by the sequence check changes no product (R153, R156). -/
def outOfSequence (s : State) : Host.Outcome State Fault Refusal := .next (raise .sequenceError s)

/-! ## Row-major memories -/

/-- The elements `f r c` of an `h × w` array, row-major (R40, R42). -/
def tabulate {α : Type} (h w : Nat) (f : Nat → Nat → α) : List α :=
  (List.range h).flatMap fun r => (List.range w).map (f r)

/-- The elements `f r c k` of an `h × w × 3` array, last index fastest (R40). -/
def tabulate3 {α : Type} (h w : Nat) (f : Nat → Nat → Nat → α) : List α :=
  (List.range h).flatMap fun r => (List.range w).flatMap fun c => (List.range 3).map (f r c)

/-- Whether GRID holds its `GRID_H * GRID_W` elements (R42); false in no state a run reaches. -/
def Grid.sized (g : Grid) : Bool := decide (g.samples.length = g.h.toNat * g.w.toNat)

/-- `G[r][c]` of a sized grid at a position inside it (R40); TO3D and TORGB read no other. -/
def Grid.at (g : Grid) (r c : Nat) : U16 := g.samples.getD (r * g.w.toNat + c) 0

/-! ## One element of a memory, if it is there (R33, R40) -/

/-- FILE[a]. -/
def fileElem (s : State) (a : Nat) : Option Byte :=
  s.file.bind fun f => if a < f.len.toNat then some (f.byte a) else none

/-- GRID[r][c]. -/
def gridElem (s : State) (r c : Nat) : Option U16 :=
  s.grid.bind fun g =>
    if r < g.h.toNat ∧ c < g.w.toNat then g.samples[r * g.w.toNat + c]? else none

/-- CH3[r][c][k]. -/
def ch3Elem (s : State) (r c k : Nat) : Option U16 :=
  s.ch3.bind fun x =>
    if r < x.h.toNat ∧ c < x.w.toNat ∧ k < 3 then x.elems[(r * x.w.toNat + c) * 3 + k]? else none

/-- RGB[r][c][k]. -/
def rgbElem (s : State) (r c k : Nat) : Option Q16 :=
  s.rgb.bind fun x =>
    if r < x.h.toNat ∧ c < x.w.toNat ∧ k < 3 then x.elems[(r * x.w.toNat + c) * 3 + k]? else none

end Sys2Proof.Machine
end

