-- ==== Sys2Proof/Machine/Locator.lean ====
section
/-! DEFINITION. The Block Locator and LOCATE (spec 40_locator.md R80 to R84). -/

namespace Sys2Proof.Machine

/-- `locate(file, v, m)`: table lookup, then length, then marker (R81, R83). -/
def locate (table : Config.BlockSizeTable) (f : FileImage) (v : Variant) (m : Byte) :
    Except Cause Block :=
  match blockSize table v m with
  | none => .error .unknownSensorMode
  | some size =>
    if f.len.toNat < size.toNat then .error .blockMissing
    else
      let b : Block := ⟨f.len - size, size⟩
      if (List.range 4).map (blockByte f b) = marker then .ok b
      else .error .malformedContainer

/-- The body of LOCATE after its sequence check: BLOCK and HDR are cleared first (R82). -/
def locateBody (table : Config.BlockSizeTable) (f : FileImage) (v : Variant) (m : Byte)
    (s : State) : Stage Block :=
  let cleared := { s with block := none, hdr := none }
  match locate table f v m with
  | .error c => .raised c cleared
  | .ok b => .done b { cleared with block := some b }

/-- LOCATE over a given block-size table (R82). -/
def locateWith (table : Config.BlockSizeTable) (s : State) : Host.Outcome State Fault Refusal :=
  match s.file, s.variant, s.mode with
  | some f, some v, some m => finish (locateBody table f v m s)
  | _, _, _ => outOfSequence s

/-- LOCATE (R82). -/
def execLocate (s : State) : Host.Outcome State Fault Refusal := locateWith blockSizeTable s

end Sys2Proof.Machine
end

