-- ==== Sys2Proof/Machine/Parser.lean ====
section
/-! DEFINITION. The Header Parser and PARSE (spec 41_header_parser.md R90 to R93,
30_encoding.md R63, R64). -/

namespace Sys2Proof.Machine

/-- The ten fields of the header at block offset 176, and the order its CFA code names
(R63, R64, R90). -/
def headerFields (bytes : Nat → Byte) (order : CfaOrder) : RawHeader where
  name := byteArray bytes headerOffset 32
  width := field16 bytes (headerOffset + 32)
  height := field16 bytes (headerOffset + 34)
  padRight := field16 bytes (headerOffset + 36)
  padDown := field16 bytes (headerOffset + 38)
  rsvd := byteArray bytes (headerOffset + 40) 24
  transform := field16 bytes (headerOffset + 64)
  format := field16 bytes (headerOffset + 66)
  cfaCode := bytes (headerOffset + 68)
  bitFormat := bytes (headerOffset + 69)
  order := order

/-- `parse_header(B)`: the CFA code is the only thing validated (R90, R91, R93). -/
def parseHeader (bytes : Nat → Byte) : Except Cause RawHeader :=
  match cfaOrder (bytes (headerOffset + 68)) with
  | none => .error .unrecognizedCfaCode
  | some order => .ok (headerFields bytes order)

/-- The body of PARSE after its sequence check: HDR is cleared first (R92). -/
def parseBody (b : Block) (s : State) : Stage RawHeader :=
  let cleared := { s with hdr := none }
  match s.file with
  | none => .stuck .fileOutOfRange
  | some f =>
    if blockInFile f b (headerOffset + headerSize) then
      match parseHeader (blockByte f b) with
      | .error c => .raised c cleared
      | .ok h => .done h { cleared with hdr := some h }
    else .stuck .fileOutOfRange

/-- PARSE (R92). -/
def execParse (s : State) : Host.Outcome State Fault Refusal :=
  match s.block with
  | some b => finish (parseBody b s)
  | none => outOfSequence s

end Sys2Proof.Machine
end

