-- ==== Sys2Proof/Machine/Unpacker.lean ====
section
/-! DEFINITION. The Sample Unpacker and UNPACK (spec 42_sample_unpacker.md R100 to R113). -/

namespace Sys2Proof.Machine

/-- `GRID[r][c]`: sample `c mod 4` of group `c / 4` of stored row `r`, rows `brw` bytes apart from
block offset 32768 (R67, R107, R108). -/
def sampleAt (bytes : Nat → Byte) (brw r c : Nat) : U16 :=
  (groupAt bytes (pixelOffset + r * brw + 5 * (c / 4))).sample (c % 4)

/-- The SampleGrid of shape `(HDR_HEIGHT, HDR_WIDTH)` (R108, R109). -/
def unpackGrid (bytes : Nat → Byte) (h : RawHeader) : Grid where
  h := h.height
  w := h.width
  order := h.order
  samples := tabulate h.height.toNat h.width.toNat (sampleAt bytes (byteRowWidth h))

/-- The body of UNPACK after its sequence check: GRID is cleared first, the size check precedes the
row-width check, and both precede every read (R105, R106, R109). -/
def unpackBody (b : Block) (h : RawHeader) (s : State) : Stage Grid :=
  let cleared := { s with grid := none }
  if geometrySize h ≠ b.size.toNat then .raised .blockSizeMismatch cleared
  else if cropBytes h % 5 ≠ 0 then .raised .invalidRowWidth cleared
  else
    match s.file with
    | none => .stuck .fileOutOfRange
    | some f =>
      if blockInFile f b b.size.toNat then
        let g := unpackGrid (blockByte f b) h
        .done g { cleared with grid := some g }
      else .stuck .fileOutOfRange

/-- UNPACK (R109). -/
def execUnpack (s : State) : Host.Outcome State Fault Refusal :=
  match s.block, s.hdr with
  | some b, some h => finish (unpackBody b h s)
  | _, _ => outOfSequence s

end Sys2Proof.Machine
end

