-- ==== Sys2Proof/Machine/Composite.lean ====
section
/-! DEFINITION. The composite command DECODE (spec 44_decode.md R146). -/

namespace Sys2Proof.Machine

/-- The bodies of LOCATE, PARSE and UNPACK in their fixed order, the first error ending the
command (R146, R160). -/
def decodeBody (table : Config.BlockSizeTable) (f : FileImage) (v : Variant) (m : Byte)
    (s : State) : Stage Grid :=
  andThen (locateBody table f v m s) fun b s1 =>
    andThen (parseBody b s1) fun h s2 => unpackBody b h s2

/-- DECODE over a given block-size table (R146). -/
def decodeWith (table : Config.BlockSizeTable) (s : State) : Host.Outcome State Fault Refusal :=
  match s.file, s.variant, s.mode with
  | some f, some v, some m => finish (decodeBody table f v m s)
  | _, _, _ => outOfSequence s

/-- DECODE (R146). -/
def execDecode (s : State) : Host.Outcome State Fault Refusal := decodeWith blockSizeTable s

end Sys2Proof.Machine
end

