-- ==== Sys2Proof/Machine/Mapper.lean ====
section
/-! DEFINITION. The Bayer Mapper, TO3D and TORGB (spec 43_bayer_mapper.md R120 to R129). -/

namespace Sys2Proof.Machine

/-- `to_3d(G, o)[r][c][k]`: the sample in its own channel, 0 in the other two (R121). -/
def ch3At (g : Grid) (r c k : Nat) : U16 := if k = chan g.order r c then g.at r c else 0

/-- The sparse ChannelImage of a grid (R121, R122). -/
def to3dImage (g : Grid) : ChannelImage where
  h := g.h
  w := g.w
  elems := tabulate3 g.h.toNat g.w.toNat (ch3At g)

/-- The body of TO3D after its sequence check: CH3 is cleared first; nothing can be raised
(R122). -/
def to3dBody (g : Grid) (s : State) : Stage ChannelImage :=
  let cleared := { s with ch3 := none }
  if g.sized then .done (to3dImage g) { cleared with ch3 := some (to3dImage g) }
  else .stuck .gridOutOfRange

/-- TO3D (R122). -/
def execTo3d (s : State) : Host.Outcome State Fault Refusal :=
  match s.grid with
  | some g => finish (to3dBody g s)
  | none => outOfSequence s

/-- The sample of tile `(t, u)` at a tile offset (R125, R126). -/
def tileSample (g : Grid) (t u : Nat) (offset : Nat × Nat) : U16 :=
  g.at (2 * t + offset.1) (2 * u + offset.2)

/-- `to_rgb(G, o)[t][u][k]` in Q16.1: twice the red or blue sample, the sum of the two greens,
formed at 17 bits (R70, R125, R126). -/
def rgbAt (g : Grid) (t u k : Nat) : Q16 :=
  match k with
  | 0 => (tileSample g t u (redAt g.order)).setWidth 17 <<< 1
  | 1 =>
    (tileSample g t u (green1At g.order)).setWidth 17 +
      (tileSample g t u (green2At g.order)).setWidth 17
  | _ => (tileSample g t u (blueAt g.order)).setWidth 17 <<< 1

/-- The dense half-size RGBImage of a grid (R125 to R127). -/
def toRgbImage (g : Grid) : RgbImage where
  h := g.h / 2
  w := g.w / 2
  elems := tabulate3 (g.h.toNat / 2) (g.w.toNat / 2) (rgbAt g)

/-- The body of TORGB after its sequence check: RGB is cleared first, then the width's parity is
checked, then the height's (R124, R127). -/
def torgbBody (g : Grid) (s : State) : Stage RgbImage :=
  let cleared := { s with rgb := none }
  if g.w.toNat % 2 = 1 then .raised (.unevenDimension .width g.w) cleared
  else if g.h.toNat % 2 = 1 then .raised (.unevenDimension .height g.h) cleared
  else if g.sized then .done (toRgbImage g) { cleared with rgb := some (toRgbImage g) }
  else .stuck .gridOutOfRange

/-- TORGB (R127). -/
def execTorgb (s : State) : Host.Outcome State Fault Refusal :=
  match s.grid with
  | some g => finish (torgbBody g s)
  | none => outOfSequence s

end Sys2Proof.Machine
end

