-- ==== Sys2Proof/Machine/Dispatch.lean ====
section
/-! DEFINITION. One arm per command (spec 30_encoding.md R72). -/

namespace Sys2Proof.Machine

def exec (i : Instr) (s : State) : Host.Outcome State Fault Refusal :=
  match i with
  | .locate => Sys2Proof.Machine.execLocate s
  | .parse => Sys2Proof.Machine.execParse s
  | .unpack => Sys2Proof.Machine.execUnpack s
  | .to3d => Sys2Proof.Machine.execTo3d s
  | .torgb => Sys2Proof.Machine.execTorgb s
  | .decode => Sys2Proof.Machine.execDecode s

end Sys2Proof.Machine
end

