-- ==== Sys2Proof/Machine/HostPort.lean ====
section
/-! DEFINITION. The command port and the host's transactions (spec 10_state.md R21, R26, R33;
44_decode.md R140 to R147; 70_reset_and_hazards.md R170). -/

namespace Sys2Proof.Machine

/-! ## Registers by number -/

/-- The registers of R26. -/
inductive Reg where
  | cmd
  | status
  | err
  | errDim
  | errVal
  | variant
  | mode
  | fileLen
  | blockBase
  | blockSize
  | hdrName
  | hdrWidth
  | hdrHeight
  | hdrPadRight
  | hdrPadDown
  | hdrRsvd
  | hdrTransform
  | hdrFormat
  | hdrCfaCode
  | hdrBitFormat
  | hdrOrder
  | gridH
  | gridW
  | gridOrder
  | ch3H
  | ch3W
  | rgbH
  | rgbW
deriving DecidableEq, Repr

/-- The register a number names; every number not listed is reserved, however large it is (R26,
log 9). -/
def regOfNumber (n : Nat) : Option Reg :=
  match n with
  | 0x00 => some .cmd
  | 0x01 => some .status
  | 0x02 => some .err
  | 0x03 => some .errDim
  | 0x04 => some .errVal
  | 0x08 => some .variant
  | 0x09 => some .mode
  | 0x0A => some .fileLen
  | 0x10 => some .blockBase
  | 0x11 => some .blockSize
  | 0x20 => some .hdrName
  | 0x21 => some .hdrWidth
  | 0x22 => some .hdrHeight
  | 0x23 => some .hdrPadRight
  | 0x24 => some .hdrPadDown
  | 0x25 => some .hdrRsvd
  | 0x26 => some .hdrTransform
  | 0x27 => some .hdrFormat
  | 0x28 => some .hdrCfaCode
  | 0x29 => some .hdrBitFormat
  | 0x2A => some .hdrOrder
  | 0x40 => some .gridH
  | 0x41 => some .gridW
  | 0x42 => some .gridOrder
  | 0x50 => some .ch3H
  | 0x51 => some .ch3W
  | 0x60 => some .rgbH
  | 0x61 => some .rgbW
  | _ => none

/-- How many elements a register has: two are arrays (R26). -/
def regElements : Reg → Nat
  | .hdrName => 32
  | .hdrRsvd => 24
  | _ => 1

/-- The value of a register, or of element `k` of an array register, if it holds one (R33). CMD
holds nothing (R21). -/
def regValue (s : State) (k : Nat) : Reg → Option Nat
  | .cmd => none
  | .status => some (status s).toNat
  | .err => some s.err.toNat
  | .errDim => some s.errDim.toNat
  | .errVal => some s.errVal.toNat
  | .variant => s.variant.map fun v => (variantCode v).toNat
  | .mode => s.mode.map (·.toNat)
  | .fileLen => s.file.map (·.len.toNat)
  | .blockBase => s.block.map (·.base.toNat)
  | .blockSize => s.block.map (·.size.toNat)
  | .hdrName => s.hdr.bind fun h => h.name[k]?.map (·.toNat)
  | .hdrWidth => s.hdr.map (·.width.toNat)
  | .hdrHeight => s.hdr.map (·.height.toNat)
  | .hdrPadRight => s.hdr.map (·.padRight.toNat)
  | .hdrPadDown => s.hdr.map (·.padDown.toNat)
  | .hdrRsvd => s.hdr.bind fun h => h.rsvd[k]?.map (·.toNat)
  | .hdrTransform => s.hdr.map (·.transform.toNat)
  | .hdrFormat => s.hdr.map (·.format.toNat)
  | .hdrCfaCode => s.hdr.map (·.cfaCode.toNat)
  | .hdrBitFormat => s.hdr.map (·.bitFormat.toNat)
  | .hdrOrder => s.hdr.map fun h => (orderCode h.order).toNat
  | .gridH => s.grid.map (·.h.toNat)
  | .gridW => s.grid.map (·.w.toNat)
  | .gridOrder => s.grid.map fun g => (orderCode g.order).toNat
  | .ch3H => s.ch3.map (·.h.toNat)
  | .ch3W => s.ch3.map (·.w.toNat)
  | .rgbH => s.rgb.map (·.h.toNat)
  | .rgbW => s.rgb.map (·.w.toNat)

/-- Whether a space's valid flag is 1 (R53). -/
def spaceValid (s : State) : MemAddr → Bool
  | .file _ => fileValid s
  | .grid _ _ => gridValid s
  | .ch3 _ _ _ => ch3Valid s
  | .rgb _ _ _ => rgbValid s

/-- The value of a memory element, if the space is valid and the address inside it (R40). -/
def memValue (s : State) : MemAddr → Option Nat
  | .file a => (fileElem s a).map (·.toNat)
  | .grid r c => (gridElem s r c).map (·.toNat)
  | .ch3 r c k => (ch3Elem s r c k).map (·.toNat)
  | .rgb r c k => (rgbElem s r c k).map (·.toNat)

/-! ## Transactions -/

/-- The host gets `reply` back and PCRAW is as it is (R145, R147). -/
def replyWith (v : Nat) (s : State) : Host.Outcome State Fault Refusal :=
  .next { s with hostReply := some (.value v) }

/-- H_READ of a register (R145). Of a register that holds no value, of CMD and of a reserved number
the read has no defined result, and R33 says that a model must treat it as a refusal. -/
def readRegister (number k : Nat) (s : State) : Host.Outcome State Fault Refusal :=
  match regOfNumber number with
  | none => .refused .reservedRegister
  | some .cmd => .refused .readOfWriteOnly
  | some r =>
    if k < regElements r then
      match regValue s k r with
      | some v => replyWith v s
      | none => .refused .readOfNoValue
    else .refused .elementOutOfRange

/-- H_READ of a memory element (R145). Of an element that holds no value the read has no defined
result, and R33 says that a model must treat it as a refusal; R40 refuses an address outside its
space alike. -/
def readMemory (addr : MemAddr) (s : State) : Host.Outcome State Fault Refusal :=
  if spaceValid s addr then
    match memValue s addr with
    | some v => replyWith v s
    | none => .refused .elementOutOfRange
  else .refused .readOfNoValue

/-- H_LOADFILE: the file is replaced whole and the located block with it; every other product is a
copy and stays (R141). -/
def loadFile (bytes : List Byte) (s : State) : Host.Outcome State Fault Refusal :=
  if bytes.length < 2 ^ 32 then
    .next { s with file := some (FileImage.ofBytes bytes), block := none, hostReply := none }
  else .refused .fileTooLong

/-- H_SETPARAM (R142). -/
def setParam (v : Variant) (m : Byte) (s : State) : Host.Outcome State Fault Refusal :=
  .next { s with variant := some v, mode := some m, hostReply := none }

/-- H_LOADGRID (R143). -/
def loadGrid (h w order : Nat) (samples : List U16) (s : State) :
    Host.Outcome State Fault Refusal :=
  if h < 2 ^ 16 ∧ w < 2 ^ 16 then
    match orderOfCode order with
    | none => .refused .orderOutOfRange
    | some o =>
      if samples.length = h * w then
        .next { s with
          grid := some ⟨BitVec.ofNat 16 h, BitVec.ofNat 16 w, o, samples⟩
          hostReply := none }
      else .refused .sampleCountWrong
  else .refused .gridTooLarge

/-- H_SETORDER (R144). -/
def setOrder (order : Nat) (s : State) : Host.Outcome State Fault Refusal :=
  match orderOfCode order with
  | none => .refused .orderOutOfRange
  | some o =>
    match s.grid with
    | none => .refused .noGridToOrder
    | some g => .next { s with grid := some { g with order := o }, hostReply := none }

/-- The CMD write returns: the host gets ERR, ERR_DIM and ERR_VAL back (R140, R147). -/
def commandReturn (s : State) : State :=
  { s with hostReply := some (.result s.err s.errDim s.errVal) }

/-- A host write of a byte to CMD: the byte is decoded, then the command runs whole
(R21, R140, R155, R156). An illegal byte only reports (R73, R153). -/
def runCommand (c : Byte) (s : State) : Host.Outcome State Fault Refusal :=
  match decode c with
  | .error _ => .next (commandReturn (raise .illegalCommand s))
  | .ok i =>
    match exec i s with
    | .next t => .next (commandReturn t)
    | .fault f => .fault f
    | .refused r => .refused r

/-- A register write by number (R26, R76, R142; log 9). -/
def writeRegister (number value : Nat) (s : State) :
    Host.Outcome State Fault Refusal :=
  match regOfNumber number with
  | none => .refused .reservedRegister
  | some .cmd =>
    if value < 2 ^ 8 then runCommand (BitVec.ofNat 8 value) s else .refused .valueTooWide
  | some .variant =>
    match variantOfCode value with
    | some v => .next { s with variant := some v, hostReply := none }
    | none => .refused .valueTooWide
  | some .mode =>
    if value < 2 ^ 8 then .next { s with mode := some (BitVec.ofNat 8 value), hostReply := none }
    else .refused .valueTooWide
  | some .gridOrder => setOrder value s
  | some _ => .refused .writeOfReadOnly

/-- Reset: everything of PCRAW; what the host is still to do is the host's (R170, log 4). -/
def resetKeepingScript (s : State) : State := { State.reset with script := s.script }

/-- One host transaction (R147). -/
def hostTransaction (t : HostTransaction) (s : State) : Host.Outcome State Fault Refusal :=
  match t with
  | .loadFile bytes => loadFile bytes s
  | .setParam v m => setParam v m s
  | .loadGrid h w order samples => loadGrid h w order samples s
  | .setOrder order => setOrder order s
  | .writeCmd c => runCommand c s
  | .writeReg number value => writeRegister number value s
  | .readReg number index => readRegister number index s
  | .readMem addr => readMemory addr s
  | .reset => .next (resetKeepingScript s)

end Sys2Proof.Machine
end

