-- ==== Sys2Proof/Machine/Step.lean ====
section
/-! DEFINITION. One step: the host's next transaction, whole (spec 44_decode.md R140, R148). -/

namespace Sys2Proof.Machine

/-- The host's next transaction is performed on the state without it; with none left the block is
idle and keeps all its state (R148, R163). -/
def step (s : State) : Host.Outcome State Fault Refusal :=
  match s.script with
  | [] => .next s
  | t :: rest => hostTransaction t { s with script := rest }

/-- The host is about to write the instruction's byte to CMD, before anything else it does
(log 4). -/
def State.withFetchWord (s : State) (nbits w : Nat) : State :=
  { s with script := .writeCmd (BitVec.ofNat 8 (w % 2 ^ nbits)) :: s.script }

end Sys2Proof.Machine
end

