-- ==== Sys2Proof/Safety.lean ====
section
/-! DEFINITION. What a good state and a good run are, in the terms the statements use: the
invariant of PCRAW's state (spec 10_state.md R10 to R25, 20_memory.md R40 to R44), and "a run has
gone wrong" (44_decode.md R148). -/

namespace Sys2Proof.Machine

/-! ## The invariant -/

/-- FILE is in canonical form (log 1). -/
def FileImage.wf (f : FileImage) : Bool := f.cells.wf f.len.toNat

/-- The block is the trailing slice of the present FILE, at least 32768 bytes long (R5, R15). -/
def Block.wfIn (b : Block) : Option FileImage → Bool
  | none => false
  | some f => decide (b.base.toNat + b.size.toNat = f.len.toNat) && decide (32768 ≤ b.size.toNat)

/-- HDR_CFA_CODE is 0..3 and HDR_ORDER is the same number (R16, R17). -/
def RawHeader.wf (h : RawHeader) : Bool := decide (h.cfaCode.toNat = (orderCode h.order).toNat)

/-- At most one of every three elements is not zero (R43). -/
def onePerPixel : List U16 → Bool
  | [] => true
  | x :: y :: z :: rest =>
    (decide (y = 0) && decide (z = 0) || decide (x = 0) && decide (z = 0) ||
      decide (x = 0) && decide (y = 0)) && onePerPixel rest
  | _ => false

/-- CH3 has its `CH3_H * CH3_W * 3` elements, at most one not zero in a pixel (R40, R43). -/
def ChannelImage.wf (x : ChannelImage) : Bool :=
  decide (x.elems.length = x.h.toNat * x.w.toNat * 3) && onePerPixel x.elems

/-- Of every three elements the first and the last are whole numbers, and none stands for more
than 65535 (R44). -/
def wholeOuter : List Q16 → Bool
  | [] => true
  | x :: y :: z :: rest =>
    decide (x.toNat % 2 = 0) && decide (z.toNat % 2 = 0) && decide (x.toNat ≤ 131070) &&
      decide (y.toNat ≤ 131070) && decide (z.toNat ≤ 131070) && wholeOuter rest
  | _ => false

/-- RGB has its `RGB_H * RGB_W * 3` elements, red and blue whole (R40, R44). -/
def RgbImage.wf (x : RgbImage) : Bool :=
  decide (x.elems.length = x.h.toNat * x.w.toNat * 3) && wholeOuter x.elems

/-- The values ERR can hold (R151). -/
def listedCodes : List Byte := [0x00, 0x10, 0x20, 0x21, 0x30, 0x40, 0x41, 0x42, 0xE0, 0xF0]

/-- The error report is one a command can leave: a listed code, a payload only with
UnevenDimensionError and then an odd one, and FAULT set if ERR is not OK (R24, R25, R124, R151). -/
def reportWf (s : State) : Bool :=
  decide (s.err ∈ listedCodes) &&
    (if s.err = 0x41 then decide (s.errVal.toNat % 2 = 1)
     else decide (s.errDim = 0) && decide (s.errVal = 0)) &&
    (decide (s.err = 0) || s.fault)

/-- The invariant of PCRAW's state: it holds at reset and every step keeps it. -/
def State.wf (s : State) : Bool :=
  s.file.all FileImage.wf && s.block.all (fun b => b.wfIn s.file) && s.hdr.all RawHeader.wf &&
    s.grid.all Grid.sized && s.ch3.all ChannelImage.wf && s.rgb.all RgbImage.wf && reportWf s

/-! ## Runs -/

/-- A run has gone wrong when FAULT is 1 at its end (R148). -/
def goneWrong (s : State) : Bool := s.fault

/-- The state an outcome goes on with, if it does. -/
def nextState : Host.Outcome State Fault Refusal → Option State
  | .next s => some s
  | .fault _ => none
  | .refused _ => none

/-- `k` steps, none of which stops. -/
def runSteps : Nat → State → Option State
  | 0, s => some s
  | k + 1, s => (nextState (step s)).bind (runSteps k)

/-- The outcome `o` with `g` applied to the state it goes on with. -/
def mapNext (g : State → State) : Host.Outcome State Fault Refusal → Host.Outcome State Fault Refusal
  | .next s => .next (g s)
  | .fault f => .fault f
  | .refused r => .refused r

/-! ## What a command reads of FILE (R41) -/

/-- The bytes LOCATE, PARSE and UNPACK may read of a block whose header is `h`: the marker, the
header, and the first `cb` bytes of each of the `HDR_HEIGHT` active rows (R41, R103). -/
def readOfBlock (h : RawHeader) (k : Nat) : Prop :=
  k < 4 ∨ (176 ≤ k ∧ k < 246) ∨
    ∃ r j, r < h.height.toNat ∧ j < cropBytes h ∧ k = 32768 + r * byteRowWidth h + j

/-! ## What the host reads (R26, R33, R40, R145) -/

/-- The register numbers that R26 lists. -/
def listedNumbers : List Nat :=
  [0x00, 0x01, 0x02, 0x03, 0x04, 0x08, 0x09, 0x0A, 0x10, 0x11, 0x20, 0x21, 0x22, 0x23, 0x24, 0x25,
    0x26, 0x27, 0x28, 0x29, 0x2A, 0x40, 0x41, 0x42, 0x50, 0x51, 0x60, 0x61]

/-- The numbers of the RawHeader registers and HDR_ORDER (R26). -/
def headerNumbers : List Nat :=
  [0x20, 0x21, 0x22, 0x23, 0x24, 0x25, 0x26, 0x27, 0x28, 0x29, 0x2A]

/-- An H_READ of element `k` of register number `n` answers `v` and changes nothing of PCRAW
(the value stands in the model's reply field, log 5). -/
def readsReg (s : State) (n k v : Nat) : Prop :=
  hostTransaction (.readReg n k) s = .next { s with hostReply := some (.value v) }

/-- An H_READ of element `k` of register number `n` is refused. -/
def refusesReg (s : State) (n k : Nat) : Prop :=
  ∃ r : Refusal, hostTransaction (.readReg n k) s = .refused r

/-- An H_READ of the memory element `a` answers `v` and changes nothing of PCRAW (log 5). -/
def readsMem (s : State) (a : MemAddr) (v : Nat) : Prop :=
  hostTransaction (.readMem a) s = .next { s with hostReply := some (.value v) }

/-- An H_READ of the memory element `a` is refused. -/
def refusesMem (s : State) (a : MemAddr) : Prop :=
  ∃ r : Refusal, hostTransaction (.readMem a) s = .refused r

end Sys2Proof.Machine
end

