-- ==== Sys2Proof/WellFormed.lean ====
section
/-! DEFINITION. Well-formed instructions and host transactions. A command has no operand, so every
instruction is well-formed; the checks are those of the host's transactions
(spec 44_decode.md R141, R143, R144; 93_implementation_defined.md V6). Whether a register number is
listed and may be accessed (10_state.md R26) is decided where the access is performed. -/

namespace Sys2Proof

/-- Every command is well-formed: it has no operand field (R71). -/
def Instr.wellFormed : Instr → Bool
  | .locate => true
  | .parse => true
  | .unpack => true
  | .to3d => true
  | .torgb => true
  | .decode => true

/-- The operand checks of V6. -/
def Machine.HostTransaction.wellFormed : Machine.HostTransaction → Bool
  | .loadFile bytes => decide (bytes.length < 2 ^ 32)
  | .setParam _ _ => true
  | .loadGrid h w order samples =>
    decide (h < 2 ^ 16) && decide (w < 2 ^ 16) && decide (order < 4) &&
      decide (samples.length = h * w)
  | .setOrder order => decide (order < 4)
  | .writeCmd _ => true
  | .writeReg _ _ => true
  | .readReg _ _ => true
  | .readMem _ => true
  | .reset => true

end Sys2Proof
end

