-- ==== Sys2Proof/Certificates/Slice0/Obligations.lean ====
section
/-! DEFINITION. The statements about PCRAW that the provers are given. Each docstring names the
rules of spec/ it formalises, or the log entry whose choice it states. An equation
`exec i s = .next { s with … }` is a result and a frame at once: every field it does not name is
as it was. -/

open Sys2Proof Sys2Proof.Machine

/-! ## Command encoding -/

/-- R72: the six bytes decode to the six commands. -/
def Obligations.CommandBytesDecodeAsTabled : Prop :=
  decode 0x01 = .ok .locate ∧ decode 0x02 = .ok .parse ∧ decode 0x03 = .ok .unpack ∧
    decode 0x04 = .ok .to3d ∧ decode 0x05 = .ok .torgb ∧ decode 0x06 = .ok .decode

/-- R71, R72: decoding an encoded command gives it back, and every byte that decodes is the
encoding of what it decodes to. -/
def Obligations.DecodeAndEncodeAgree : Prop :=
  (∀ i : Instr, i.wellFormed = true → decode (encode i) = .ok i) ∧
    ∀ (c : Byte) (i : Instr), decode c = .ok i → encode i = c

/-- R73: the bytes 0x01..0x06 are commands; any other byte written to CMD ends at once with
IllegalCommand and changes nothing but the report. (That the report is also the host's reply is
the model's, log 5.) -/
def Obligations.IllegalBytesOnlyReport : Prop :=
  (∀ c : Byte, 1 ≤ c.toNat → c.toNat ≤ 6 → ∃ i, decode c = .ok i) ∧
    ∀ (c : Byte) (s : State) (rest : List HostTransaction),
      s.script = .writeCmd c :: rest → (c.toNat = 0 ∨ 7 ≤ c.toNat) →
        step s = .next { s with
          script := rest
          err := 0xF0
          errDim := 0
          errVal := 0
          fault := true
          hostReply := some (.result 0xF0 0 0) }

/-! ## The step -/

/-- R21, R140, R147: when the host's next transaction writes a command's byte to CMD, the step is
that command's meaning on the state without the transaction, and the host gets ERR, ERR_DIM and
ERR_VAL back. (The script and the reply are the model's, logs 4 and 5.) -/
def Obligations.StepRunsTheDecodedCommand : Prop :=
  ∀ (s : State) (c : Byte) (rest : List HostTransaction) (i : Instr),
    s.script = .writeCmd c :: rest → decode c = .ok i →
      step s = mapNext (fun t => { t with hostReply := some (.result t.err t.errDim t.errVal) })
        (exec i { s with script := rest })

/-- R21, R26, R76: a write of a byte to register number 0x00 is a write to CMD. -/
def Obligations.RegisterZeroIsTheCommandPort : Prop :=
  ∀ (s : State) (value : Nat) (rest : List HostTransaction), value < 256 →
    step { s with script := .writeReg 0x00 value :: rest } =
      step { s with script := .writeCmd (BitVec.ofNat 8 value) :: rest }

/-- R148, R163: with no transaction left, a step changes nothing. The step of an idle block is the
model's choice (log 4). -/
def Obligations.IdleStepChangesNothing : Prop :=
  ∀ s : State, s.script = [] → step s = .next s

/-! ## Reset -/

/-- R34, R170: after reset every valid flag and FAULT is 0, the report is 0, and no parameter and
no product holds a value; LOCATE and DECODE then miss their inputs. -/
def Obligations.ResetLeavesNothingValid : Prop :=
  status State.reset = 0x00 ∧ State.reset.err = 0x00 ∧ State.reset.errDim = 0 ∧
    State.reset.errVal = 0x0000 ∧ State.reset.variant = none ∧ State.reset.mode = none ∧
    State.reset.file = none ∧ State.reset.block = none ∧ State.reset.hdr = none ∧
    State.reset.grid = none ∧ State.reset.ch3 = none ∧ State.reset.rgb = none ∧
    ∀ i ∈ [Instr.locate, Instr.decode],
      exec i State.reset = .next { State.reset with err := 0xE0, fault := true }

/-- R170, R171: reset puts every piece of state to its reset value, from any state. (The host's
transactions still to come are not the block's state, log 4.) -/
def Obligations.ResetClearsEverything : Prop :=
  ∀ (s : State) (rest : List HostTransaction), s.script = .reset :: rest →
    step s = .next { State.reset with script := rest }

/-- The reset state meets the invariant (R34 with R10 to R25). -/
def Obligations.ResetMeetsTheInvariant : Prop := State.reset.wf = true

/-! ## LOCATE -/

/-- R5, R80: the two documented entries, and no entry above mode 7 in any table. -/
def Obligations.BlockSizeTableAsDocumented : Prop :=
  blockSize blockSizeTable .a 0 = some 6404096 ∧ blockSize blockSizeTable .b 0 = some 10270208 ∧
    ∀ (table : Config.BlockSizeTable) (v : Variant) (m : Byte), 8 ≤ m.toNat →
      blockSize table v m = none

/-- R81, R82: on a file at least as long as the table's entry, whose bytes there are the marker,
LOCATE completes with the trailing slice as BLOCK and HDR cleared. -/
def Obligations.LocateFindsTheTrailingBlock : Prop :=
  ∀ (s : State) (f : FileImage) (v : Variant) (m : Byte) (size : U32),
    s.file = some f → s.variant = some v → s.mode = some m →
    blockSize blockSizeTable v m = some size → size.toNat ≤ f.len.toNat →
    f.byte (f.len.toNat - size.toNat) = 0x42 → f.byte (f.len.toNat - size.toNat + 1) = 0x52 →
    f.byte (f.len.toNat - size.toNat + 2) = 0x43 → f.byte (f.len.toNat - size.toNat + 3) = 0x4D →
      exec .locate s = .next { s with
        block := some ⟨BitVec.ofNat 32 (f.len.toNat - size.toNat), size⟩
        hdr := none
        err := 0x00
        errDim := 0
        errVal := 0 }

/-- R82, R83, R155: LOCATE's three failures after its sequence check, each with the clears of BLOCK
and HDR: no table entry before all, then a file too short, then a wrong marker byte. -/
def Obligations.LocateReportsEachFailure : Prop :=
  ∀ (s : State) (f : FileImage) (v : Variant) (m : Byte),
    s.file = some f → s.variant = some v → s.mode = some m →
      (blockSize blockSizeTable v m = none →
        exec .locate s = .next { s with
          block := none
          hdr := none
          err := 0x10
          errDim := 0
          errVal := 0
          fault := true }) ∧
      ∀ size : U32, blockSize blockSizeTable v m = some size →
        (f.len.toNat < size.toNat →
          exec .locate s = .next { s with
            block := none
            hdr := none
            err := 0x21
            errDim := 0
            errVal := 0
            fault := true }) ∧
        (size.toNat ≤ f.len.toNat →
          (f.byte (f.len.toNat - size.toNat) ≠ 0x42 ∨
            f.byte (f.len.toNat - size.toNat + 1) ≠ 0x52 ∨
            f.byte (f.len.toNat - size.toNat + 2) ≠ 0x43 ∨
            f.byte (f.len.toNat - size.toNat + 3) ≠ 0x4D) →
          exec .locate s = .next { s with
            block := none
            hdr := none
            err := 0x20
            errDim := 0
            errVal := 0
            fault := true })

/-- R41, R84: LOCATE reads four bytes of FILE and its length. Another file of the same length with
the same four bytes gives the same outcome, beside holding that file. -/
def Obligations.LocateReadsOnlyTheMarker : Prop :=
  ∀ (s : State) (f f' : FileImage), s.file = some f → f'.len = f.len →
    (∀ (v : Variant) (m : Byte) (size : U32) (k : Nat), s.variant = some v → s.mode = some m →
      blockSize blockSizeTable v m = some size → k < 4 →
      f'.byte (f.len.toNat - size.toNat + k) = f.byte (f.len.toNat - size.toNat + k)) →
      exec .locate { s with file := some f' } =
        mapNext (fun t => { t with file := some f' }) (exec .locate s)

/-! ## PARSE -/

/-- R63, R64, R90, R92: PARSE latches each header field from its block offset, 16-bit fields with
the low byte first, and the order is the CFA code's. -/
def Obligations.ParseLatchesEveryField : Prop :=
  ∀ (s : State) (b : Block) (f : FileImage), s.block = some b → s.file = some f →
    b.base.toNat + 246 ≤ f.len.toNat → (f.byte (b.base.toNat + 244)).toNat ≤ 3 →
      ∃ h : RawHeader,
        exec .parse s = .next { s with hdr := some h, err := 0x00, errDim := 0, errVal := 0 } ∧
        (∀ i : Fin 32, h.name[i] = f.byte (b.base.toNat + 176 + i)) ∧
        h.width.toNat =
          (f.byte (b.base.toNat + 208)).toNat + 256 * (f.byte (b.base.toNat + 209)).toNat ∧
        h.height.toNat =
          (f.byte (b.base.toNat + 210)).toNat + 256 * (f.byte (b.base.toNat + 211)).toNat ∧
        h.padRight.toNat =
          (f.byte (b.base.toNat + 212)).toNat + 256 * (f.byte (b.base.toNat + 213)).toNat ∧
        h.padDown.toNat =
          (f.byte (b.base.toNat + 214)).toNat + 256 * (f.byte (b.base.toNat + 215)).toNat ∧
        (∀ i : Fin 24, h.rsvd[i] = f.byte (b.base.toNat + 216 + i)) ∧
        h.transform.toNat =
          (f.byte (b.base.toNat + 240)).toNat + 256 * (f.byte (b.base.toNat + 241)).toNat ∧
        h.format.toNat =
          (f.byte (b.base.toNat + 242)).toNat + 256 * (f.byte (b.base.toNat + 243)).toNat ∧
        h.cfaCode = f.byte (b.base.toNat + 244) ∧
        h.bitFormat = f.byte (b.base.toNat + 245) ∧
        (orderCode h.order).toNat = (f.byte (b.base.toNat + 244)).toNat

/-- R65, R91, R92: a CFA code above 3 ends PARSE with no header register holding a value. -/
def Obligations.ParseRejectsBadCfaCode : Prop :=
  ∀ (s : State) (b : Block) (f : FileImage), s.block = some b → s.file = some f →
    b.base.toNat + 246 ≤ f.len.toNat → 4 ≤ (f.byte (b.base.toNat + 244)).toNat →
      exec .parse s = .next { s with
        hdr := none
        err := 0x30
        errDim := 0
        errVal := 0
        fault := true }

/-! ## Geometry and the 5-byte group -/

/-- R9, whose rounding up is a decision of the spec (D8, log 11): `pad_to_multiple(x, m)` is the
least multiple of `m` that is not less than `x`. -/
def Obligations.PadToMultipleIsLeast : Prop :=
  ∀ x m : Nat, 1 ≤ m →
    padToMultiple x m = ((x + m - 1) / m) * m ∧ m ∣ padToMultiple x m ∧ x ≤ padToMultiple x m ∧
      ∀ y : Nat, m ∣ y → x ≤ y → padToMultiple x m ≤ y

/-- The facts of R110 (a) to (c), which the spec marks as derived from R102, R103 and R106: the
stride is 40 bytes for every 32 padded samples, the
region is a multiple of 640 bytes, the crop lies inside the padded array, and the crop width is a
multiple of 5 exactly when the width is a multiple of 4. -/
def Obligations.GeometryFactsHold : Prop :=
  ∀ h : RawHeader,
    byteRowWidth h = 40 * (widthPadded h / 32) ∧ byteRowWidth h % 5 = 0 ∧
      byteRowWidth h % 8 = 0 ∧ (heightPadded h * byteRowWidth h) % 640 = 0 ∧
      h.height.toNat ≤ heightPadded h ∧ cropBytes h ≤ byteRowWidth h ∧
      (cropBytes h % 5 = 0 ↔ h.width.toNat % 4 = 0)

/-- R68, R107: lane `i` has byte `b_i` as its eight high bits and its own pair of `b4` as the low
two, the top pair being lane 0's. -/
def Obligations.GroupLanesAsPictured : Prop :=
  ∀ g : ByteGroup,
    (g.sample 0).toNat = 4 * g.b0.toNat + g.b4.toNat / 64 ∧
      (g.sample 1).toNat = 4 * g.b1.toNat + g.b4.toNat / 16 % 4 ∧
      (g.sample 2).toNat = 4 * g.b2.toNat + g.b4.toNat / 4 % 4 ∧
      (g.sample 3).toNat = 4 * g.b3.toNat + g.b4.toNat % 4

/-- R69, R112, which the spec marks as derived from R68: packing and unpacking are inverse to each
other, for all ten-bit samples and for all groups. -/
def Obligations.PackingRoundTrips : Prop :=
  (∀ s0 s1 s2 s3 : U16, s0.toNat ≤ 1023 → s1.toNat ≤ 1023 → s2.toNat ≤ 1023 → s3.toNat ≤ 1023 →
    (packGroup s0 s1 s2 s3).sample 0 = s0 ∧ (packGroup s0 s1 s2 s3).sample 1 = s1 ∧
      (packGroup s0 s1 s2 s3).sample 2 = s2 ∧ (packGroup s0 s1 s2 s3).sample 3 = s3) ∧
    ∀ g : ByteGroup, packGroup (g.sample 0) (g.sample 1) (g.sample 2) (g.sample 3) = g

/-! ## UNPACK -/

/-- R107, R108: on a block inside FILE whose size is the geometry's and a width that is a
multiple of 4, UNPACK completes, and the sample at every row and column is its own byte over its
own pair of the group's fifth byte. -/
def Obligations.UnpackExpandsEveryGroup : Prop :=
  ∀ (s : State) (b : Block) (h : RawHeader) (f : FileImage) (brw : Nat),
    s.block = some b → s.hdr = some h → s.file = some f →
    b.base.toNat + b.size.toNat ≤ f.len.toNat →
    brw = (((h.width.toNat + h.padRight.toNat + 31) / 32 * 32) * 5 + 3) / 4 →
    b.size.toNat = 32768 + (h.height.toNat + h.padDown.toNat + 15) / 16 * 16 * brw →
    h.width.toNat % 4 = 0 →
      ∃ g : Grid,
        exec .unpack s = .next { s with grid := some g, err := 0x00, errDim := 0, errVal := 0 } ∧
        g.h = h.height ∧ g.w = h.width ∧ g.order = h.order ∧
        g.samples.length = h.height.toNat * h.width.toNat ∧
        ∀ r c : Nat, r < h.height.toNat → c < h.width.toNat →
          ∃ x : U16, g.samples[r * h.width.toNat + c]? = some x ∧
            x.toNat =
              4 * (f.byte (b.base.toNat + 32768 + r * brw + 5 * (c / 4) + c % 4)).toNat +
                (f.byte (b.base.toNat + 32768 + r * brw + 5 * (c / 4) + 4)).toNat /
                  4 ^ (3 - c % 4) % 4

/-- R105, R109, R155: a block size other than `32768 + hp * brw` ends UNPACK, whatever the width,
with no grid. -/
def Obligations.UnpackRejectsSizeMismatch : Prop :=
  ∀ (s : State) (b : Block) (h : RawHeader), s.block = some b → s.hdr = some h →
    b.size.toNat ≠ 32768 + (h.height.toNat + h.padDown.toNat + 15) / 16 * 16 *
      ((((h.width.toNat + h.padRight.toNat + 31) / 32 * 32) * 5 + 3) / 4) →
      exec .unpack s = .next { s with
        grid := none
        err := 0x42
        errDim := 0
        errVal := 0
        fault := true }

/-- R106, R109: with the size as the geometry asks, a width that is not a multiple of 4 ends UNPACK
with InvalidRowWidthError and no grid. -/
def Obligations.UnpackRejectsPartialGroups : Prop :=
  ∀ (s : State) (b : Block) (h : RawHeader), s.block = some b → s.hdr = some h →
    b.size.toNat = 32768 + (h.height.toNat + h.padDown.toNat + 15) / 16 * 16 *
      ((((h.width.toNat + h.padRight.toNat + 31) / 32 * 32) * 5 + 3) / 4) →
    h.width.toNat % 4 ≠ 0 →
      exec .unpack s = .next { s with
        grid := none
        err := 0x40
        errDim := 0
        errVal := 0
        fault := true }

/-- A fact the spec marks as derived from R101 and R102 (R105, 90_conflicts.md C5): no header makes
a block of the documented variant-A mode-0 size unpack. -/
def Obligations.VariantAModeZeroNeverUnpacks : Prop :=
  ∀ (s : State) (b : Block) (h : RawHeader), s.block = some b → s.hdr = some h →
    blockSize blockSizeTable .a 0 = some b.size →
      exec .unpack s = .next { s with
        grid := none
        err := 0x42
        errDim := 0
        errVal := 0
        fault := true }

/-- R111: after a successful UNPACK the grid has the header's shape, a width that is a multiple of
4 and ten-bit samples, and a later H_LOADFILE leaves it unchanged and valid. -/
def Obligations.UnpackedGridInvariants : Prop :=
  ∀ s t : State, exec .unpack s = .next t → t.err = 0x00 →
    ∃ (h : RawHeader) (g : Grid), s.hdr = some h ∧ t.grid = some g ∧ g.h = h.height ∧
      g.w = h.width ∧ g.w.toNat % 4 = 0 ∧ g.samples.length = g.h.toNat * g.w.toNat ∧
      (∀ x ∈ g.samples, x.toNat ≤ 1023) ∧
      ∀ (bytes : List Byte) (u : State),
        hostTransaction (.loadFile bytes) t = .next u → u.grid = some g

/-- R41, and R110 (e), which the spec marks as derived from R109: another file of the same length
that agrees on the active bytes of the block gives the same outcome of UNPACK: no padding byte,
padding row or other byte matters. -/
def Obligations.UnpackIgnoresInactiveBytes : Prop :=
  ∀ (s : State) (b : Block) (h : RawHeader) (f f' : FileImage),
    s.block = some b → s.hdr = some h → s.file = some f → f'.len = f.len →
    (∀ r j : Nat, r < h.height.toNat → j < cropBytes h →
      blockByte f' b (32768 + r * byteRowWidth h + j) =
        blockByte f b (32768 + r * byteRowWidth h + j)) →
      exec .unpack { s with file := some f' } =
        mapNext (fun t => { t with file := some f' }) (exec .unpack s)

/-! ## TO3D and TORGB -/

/-- R66, R120: the channel of each tile position under each order, and the four tile offsets, which
are the positions of those colours, the greens on one diagonal. (The spec marks three rows of the
table as its own reading of the names, log 15.) -/
def Obligations.TileTablesAsWritten : Prop :=
  [CfaOrder.rggb, .gbrg, .bggr, .grbg].map (fun o => [redAt o, green1At o, green2At o, blueAt o]) =
      [[(0, 0), (0, 1), (1, 0), (1, 1)], [(1, 0), (0, 0), (1, 1), (0, 1)],
        [(1, 1), (0, 1), (1, 0), (0, 0)], [(0, 1), (0, 0), (1, 1), (1, 0)]] ∧
    ((List.range 4).map fun n => chan .rggb (n / 2) (n % 2)) = [0, 1, 1, 2] ∧
    ((List.range 4).map fun n => chan .gbrg (n / 2) (n % 2)) = [1, 2, 0, 1] ∧
    ((List.range 4).map fun n => chan .bggr (n / 2) (n % 2)) = [2, 1, 1, 0] ∧
    ((List.range 4).map fun n => chan .grbg (n / 2) (n % 2)) = [1, 0, 2, 1] ∧
    (∀ (o : CfaOrder) (r c : Nat), chan o r c = chan o (r % 2) (c % 2)) ∧
    ∀ o : CfaOrder, chan o (redAt o).1 (redAt o).2 = 0 ∧
      chan o (green1At o).1 (green1At o).2 = 1 ∧ chan o (green2At o).1 (green2At o).2 = 1 ∧
      chan o (blueAt o).1 (blueAt o).2 = 2 ∧ (green1At o).1 + (green2At o).1 = 1 ∧
      (green1At o).2 + (green2At o).2 = 1 ∧ (redAt o).1 + (blueAt o).1 = 1 ∧
      (redAt o).2 + (blueAt o).2 = 1

/-- R121: TO3D completes on every grid that holds its elements, odd and zero dimensions
too; the sample stands in its own channel and the other two are 0. -/
def Obligations.To3dPutsEachSampleInItsChannel : Prop :=
  ∀ (s : State) (g : Grid), s.grid = some g →
    g.samples.length = g.h.toNat * g.w.toNat →
      ∃ x : ChannelImage,
        exec .to3d s = .next { s with ch3 := some x, err := 0x00, errDim := 0, errVal := 0 } ∧
        x.h = g.h ∧ x.w = g.w ∧ x.elems.length = g.h.toNat * g.w.toNat * 3 ∧
        ∀ (r c k : Nat) (v : U16), r < g.h.toNat → c < g.w.toNat → k < 3 →
          g.samples[r * g.w.toNat + c]? = some v →
            x.elems[(r * g.w.toNat + c) * 3 + k]? =
              some (if k = chan g.order r c then v else 0)

/-- R43, R121: after a successful TO3D at most one channel of a pixel is not zero. -/
def Obligations.To3dLeavesOneChannelPerPixel : Prop :=
  ∀ s t : State, exec .to3d s = .next t → t.err = 0x00 →
    ∀ (r c k k' : Nat) (v v' : U16), ch3Elem t r c k = some v → ch3Elem t r c k' = some v' →
      k ≠ k' → v = 0 ∨ v' = 0

/-- R125, R126: TORGB completes on every grid that holds its elements with both dimensions even;
the stored numbers are twice the red sample, the sum of the two greens, and twice the blue
sample. -/
def Obligations.TorgbCollapsesEachTile : Prop :=
  ∀ (s : State) (g : Grid), s.grid = some g →
    g.samples.length = g.h.toNat * g.w.toNat → g.w.toNat % 2 = 0 → g.h.toNat % 2 = 0 →
      ∃ x : RgbImage,
        exec .torgb s = .next { s with rgb := some x, err := 0x00, errDim := 0, errVal := 0 } ∧
        x.h.toNat = g.h.toNat / 2 ∧ x.w.toNat = g.w.toNat / 2 ∧
        x.elems.length = x.h.toNat * x.w.toNat * 3 ∧
        ∀ (t u : Nat), t < g.h.toNat / 2 → u < g.w.toNat / 2 →
          ∃ (qr qg qb : Q16) (vr v1 v2 vb : U16),
            x.elems[(t * x.w.toNat + u) * 3]? = some qr ∧
            x.elems[(t * x.w.toNat + u) * 3 + 1]? = some qg ∧
            x.elems[(t * x.w.toNat + u) * 3 + 2]? = some qb ∧
            gridElem s (2 * t + (redAt g.order).1) (2 * u + (redAt g.order).2) = some vr ∧
            gridElem s (2 * t + (green1At g.order).1) (2 * u + (green1At g.order).2) = some v1 ∧
            gridElem s (2 * t + (green2At g.order).1) (2 * u + (green2At g.order).2) = some v2 ∧
            gridElem s (2 * t + (blueAt g.order).1) (2 * u + (blueAt g.order).2) = some vb ∧
            qr.toNat = 2 * vr.toNat ∧ qg.toNat = v1.toNat + v2.toNat ∧ qb.toNat = 2 * vb.toNat

/-- R124: an odd width is named first with its value, an odd height only when the width is even;
no RGB value is left, and nothing else changes but the report. -/
def Obligations.TorgbNamesTheOddDimension : Prop :=
  ∀ (s : State) (g : Grid), s.grid = some g →
    (g.w.toNat % 2 = 1 →
      exec .torgb s = .next { s with
        rgb := none
        err := 0x41
        errDim := 0
        errVal := g.w
        fault := true }) ∧
    (g.w.toNat % 2 = 0 → g.h.toNat % 2 = 1 →
      exec .torgb s = .next { s with
        rgb := none
        err := 0x41
        errDim := 1
        errVal := g.h
        fault := true })

/-- A relation that R129 marks as derived from R121, R125 and R126: of one even grid, the RGBImage's
red and blue are twice the ChannelImage's entries at the tile's red and blue positions, and its
green is the sum of the four channel-1 entries of the tile. -/
def Obligations.RgbAgreesWithChannelImage : Prop :=
  ∀ (s a b : State) (g : Grid), s.grid = some g → exec .to3d s = .next a →
    exec .torgb s = .next b → a.err = 0x00 → b.err = 0x00 →
      ∀ t u : Nat, t < g.h.toNat / 2 → u < g.w.toNat / 2 →
        ∃ (q0 q1 q2 : Q16) (cr cb c00 c01 c10 c11 : U16),
          rgbElem b t u 0 = some q0 ∧ rgbElem b t u 1 = some q1 ∧ rgbElem b t u 2 = some q2 ∧
          ch3Elem a (2 * t + (redAt g.order).1) (2 * u + (redAt g.order).2) 0 = some cr ∧
          ch3Elem a (2 * t + (blueAt g.order).1) (2 * u + (blueAt g.order).2) 2 = some cb ∧
          ch3Elem a (2 * t) (2 * u) 1 = some c00 ∧ ch3Elem a (2 * t) (2 * u + 1) 1 = some c01 ∧
          ch3Elem a (2 * t + 1) (2 * u) 1 = some c10 ∧
          ch3Elem a (2 * t + 1) (2 * u + 1) 1 = some c11 ∧
          q0.toNat = 2 * cr.toNat ∧ q2.toNat = 2 * cb.toNat ∧
          q1.toNat = c00.toNat + c01.toNat + c10.toNat + c11.toNat

/-- A fact that R129 marks as derived from R122 and R127: TO3D then TORGB and TORGB then TO3D leave
the same CH3 and the same RGB, which are those of either alone, and the grid as it was. -/
def Obligations.MapperOrderDoesNotMatter : Prop :=
  ∀ s a b c d : State, exec .to3d s = .next a → exec .torgb a = .next b →
    exec .torgb s = .next c → exec .to3d c = .next d →
      b.ch3 = d.ch3 ∧ b.rgb = d.rgb ∧ b.ch3 = a.ch3 ∧ d.rgb = c.rgb ∧ b.grid = s.grid ∧
        d.grid = s.grid

/-! ## DECODE -/

/-- R146: from every state DECODE is LOCATE, then PARSE if that succeeded, then UNPACK if that
succeeded. -/
def Obligations.DecodeIsLocateParseUnpack : Prop :=
  ∀ s : State, exec .decode s =
    match exec .locate s with
    | .next s1 =>
      if s1.err = 0x00 then
        match exec .parse s1 with
        | .next s2 => if s2.err = 0x00 then exec .unpack s2 else .next s2
        | o => o
      else .next s1
    | o => o

/-- R146: with a marked block of the table's size, a CFA code of 0..3, and a header geometry that
fits the block, DECODE completes with BLOCK, HDR and GRID valid; the grid's order is the header's
and every sample is as R108 gives it. -/
def Obligations.DecodeDeliversTheGrid : Prop :=
  ∀ (s : State) (f : FileImage) (v : Variant) (m : Byte) (size : U32) (base w h pr pd brw : Nat),
    s.file = some f → s.variant = some v → s.mode = some m →
    blockSize blockSizeTable v m = some size → base + size.toNat = f.len.toNat →
    f.byte base = 0x42 → f.byte (base + 1) = 0x52 →
    f.byte (base + 2) = 0x43 → f.byte (base + 3) = 0x4D →
    w = (f.byte (base + 208)).toNat + 256 * (f.byte (base + 209)).toNat →
    h = (f.byte (base + 210)).toNat + 256 * (f.byte (base + 211)).toNat →
    pr = (f.byte (base + 212)).toNat + 256 * (f.byte (base + 213)).toNat →
    pd = (f.byte (base + 214)).toNat + 256 * (f.byte (base + 215)).toNat →
    (f.byte (base + 244)).toNat ≤ 3 →
    brw = (((w + pr + 31) / 32 * 32) * 5 + 3) / 4 →
    size.toNat = 32768 + (h + pd + 15) / 16 * 16 * brw → w % 4 = 0 →
      ∃ (hd : RawHeader) (g : Grid),
        exec .decode s = .next { s with
          block := some ⟨BitVec.ofNat 32 base, size⟩
          hdr := some hd
          grid := some g
          err := 0x00
          errDim := 0
          errVal := 0 } ∧
        hd.width.toNat = w ∧ hd.height.toNat = h ∧ hd.padRight.toNat = pr ∧
        hd.padDown.toNat = pd ∧ hd.cfaCode = f.byte (base + 244) ∧
        (orderCode hd.order).toNat = (f.byte (base + 244)).toNat ∧
        g.h = hd.height ∧ g.w = hd.width ∧ g.order = hd.order ∧ g.samples.length = h * w ∧
        ∀ r c : Nat, r < h → c < w →
          ∃ x : U16, g.samples[r * w + c]? = some x ∧
            x.toNat =
              4 * (f.byte (base + 32768 + r * brw + 5 * (c / 4) + c % 4)).toNat +
                (f.byte (base + 32768 + r * brw + 5 * (c / 4) + 4)).toNat / 4 ^ (3 - c % 4) % 4

/-- R146: what a DECODE leaves, by the stage it fails in; CH3 and RGB it never changes. -/
def Obligations.DecodeFailureTable : Prop :=
  ∀ s t : State, exec .decode s = .next t →
    t.ch3 = s.ch3 ∧ t.rgb = s.rgb ∧
      ((t.err = 0xE0 ∧ t.block = s.block ∧ t.hdr = s.hdr ∧ t.grid = s.grid) ∨
        ((t.err = 0x10 ∨ t.err = 0x21 ∨ t.err = 0x20) ∧ blockValid t = false ∧
          hdrValid t = false ∧ t.grid = s.grid) ∨
        (t.err = 0x30 ∧ blockValid t = true ∧ hdrValid t = false ∧ t.grid = s.grid) ∨
        ((t.err = 0x42 ∨ t.err = 0x40) ∧ blockValid t = true ∧ hdrValid t = true ∧
          gridValid t = false) ∨
        (t.err = 0x00 ∧ blockValid t = true ∧ hdrValid t = true ∧ gridValid t = true))

/-- R41: DECODE reads the marker, the header and the active pixel bytes of the block. Another file
of the same length that agrees there gives the same outcome, beside holding that file. -/
def Obligations.DecodeIgnoresUnreadBytes : Prop :=
  ∀ (s : State) (f f' : FileImage), s.file = some f → f'.len = f.len →
    (∀ (v : Variant) (m : Byte) (size : U32) (k : Nat), s.variant = some v → s.mode = some m →
      blockSize blockSizeTable v m = some size →
      readOfBlock (headerFields (blockByte f ⟨f.len - size, size⟩) .rggb) k →
        blockByte f' ⟨f.len - size, size⟩ k = blockByte f ⟨f.len - size, size⟩ k) →
      exec .decode { s with file := some f' } =
        mapNext (fun t => { t with file := some f' }) (exec .decode s)

/-! ## Errors -/

/-- R153: each command finds the inputs it checks; one without a value ends it with SequenceError,
which changes nothing but the report, and an illegal byte ends with IllegalCommand in the same
way. (The host's reply to a CMD write is the model's, log 5.) -/
def Obligations.MissingInputsRaiseSequenceError : Prop :=
  ∀ s : State,
    (∀ i ∈ [Instr.locate, Instr.decode], s.file = none ∨ s.variant = none ∨ s.mode = none →
      exec i s = .next { s with err := 0xE0, errDim := 0, errVal := 0, fault := true }) ∧
    (s.block = none →
      exec .parse s = .next { s with err := 0xE0, errDim := 0, errVal := 0, fault := true }) ∧
    (s.block = none ∨ s.hdr = none →
      exec .unpack s = .next { s with err := 0xE0, errDim := 0, errVal := 0, fault := true }) ∧
    (∀ i ∈ [Instr.to3d, Instr.torgb], s.grid = none →
      exec i s = .next { s with err := 0xE0, errDim := 0, errVal := 0, fault := true }) ∧
    ∀ c : Byte, (∀ i, decode c ≠ .ok i) →
      hostTransaction (.writeCmd c) s = .next { s with
        err := 0xF0
        errDim := 0
        errVal := 0
        fault := true
        hostReply := some (.result 0xF0 0 0) }

/-- R153, R156: a command that reports SequenceError has changed nothing but the report. -/
def Obligations.SequenceErrorChangesNothingElse : Prop :=
  ∀ (i : Instr) (s t : State), exec i s = .next t → t.err = 0xE0 →
    t = { s with err := 0xE0, errDim := 0, errVal := 0, fault := true }

/-- R156, R157: LOCATE, PARSE, UNPACK and TORGB, failing after execution started, leave the state
before them with their clears applied and the report written: no product of theirs is left, and none
of another is touched. TO3D cannot fail so; DECODE is in DecodeFailureTable. -/
def Obligations.FailedCommandLeavesNoProduct : Prop :=
  ∀ s t : State, t.err ≠ 0x00 → t.err ≠ 0xE0 →
    (exec .locate s = .next t →
      t = { s with block := none, hdr := none, err := t.err, errDim := 0, errVal := 0,
                   fault := true }) ∧
    (exec .parse s = .next t →
      t = { s with hdr := none, err := t.err, errDim := 0, errVal := 0, fault := true }) ∧
    (exec .unpack s = .next t →
      t = { s with grid := none, err := t.err, errDim := 0, errVal := 0, fault := true }) ∧
    (exec .torgb s = .next t →
      t = { s with rgb := none, err := 0x41, errDim := t.errDim, errVal := t.errVal,
                   fault := true }) ∧
    exec .to3d s ≠ .next t

/-- R23 to R25, R151: a command that ends writes a listed code; the payload is 0 unless the code is
UnevenDimensionError's, which only TORGB raises; a failure sets FAULT and a success leaves it. -/
def Obligations.CommandsReportListedResults : Prop :=
  ∀ (i : Instr) (s t : State), exec i s = .next t →
    t.err ∈ listedCodes ∧ t.err ≠ 0xF0 ∧
      (t.err ≠ 0x41 → t.errDim = 0 ∧ t.errVal = 0) ∧ (t.err = 0x41 → i = .torgb) ∧
      (t.err ≠ 0x00 → t.fault = true) ∧ (t.err = 0x00 → t.fault = s.fault)

/-- R150, R151, C2: each cause has its own code, never OK's, whose high nibble is its kind's. -/
def Obligations.CauseCodesAndKinds : Prop :=
  (∀ c : Cause, (causeCode c).extractLsb' 4 4 = kindNibble (causeKind c) ∧
    causeCode c ∈ listedCodes ∧ causeCode c ≠ 0x00) ∧
    ∀ c c' : Cause, causeCode c = causeCode c' →
      c = c' ∨ ∃ (d d' : Dimension) (x x' : U16),
        c = .unevenDimension d x ∧ c' = .unevenDimension d' x'

/-! ## Frames, invariants, completion and runs -/

/-- R11 to R20, R27, R53: no command writes the parameters, FILE, or the host's side; each product
is written only by the commands that own it, and every element of a memory a command does not own
reads as before. -/
def Obligations.CommandsWriteOnlyTheirProducts : Prop :=
  ∀ (i : Instr) (s t : State), exec i s = .next t →
    t.variant = s.variant ∧ t.mode = s.mode ∧ t.file = s.file ∧ t.script = s.script ∧
      t.hostReply = s.hostReply ∧
      (i ≠ .locate → i ≠ .decode → t.block = s.block) ∧
      (i ≠ .locate → i ≠ .parse → i ≠ .decode → t.hdr = s.hdr) ∧
      (i ≠ .unpack → i ≠ .decode → t.grid = s.grid) ∧
      (i ≠ .to3d → t.ch3 = s.ch3) ∧ (i ≠ .torgb → t.rgb = s.rgb) ∧
      (∀ a : Nat, fileElem t a = fileElem s a) ∧
      (i ≠ .unpack → i ≠ .decode → ∀ r c : Nat, gridElem t r c = gridElem s r c) ∧
      (i ≠ .to3d → ∀ r c k : Nat, ch3Elem t r c k = ch3Elem s r c k) ∧
      (i ≠ .torgb → ∀ r c k : Nat, rgbElem t r c k = rgbElem s r c k)

/-- R10 to R25, R40 to R44, R151: every step, of the block or of the host, keeps the invariant:
FILE canonical, the block the trailing slice of the present file, the header's code in 0..3, each
memory of exactly its elements and of its form, the error report a listed one. (That FILE is held
sparsely in a canonical form is the model's, log 1.) -/
def Obligations.StepKeepsTheInvariant : Prop :=
  ∀ s t : State, s.wf = true → step s = .next t → t.wf = true

/-- R8, R40: in a state that meets the invariant, no step makes an access outside FILE or GRID. (That
such an access of PARSE, UNPACK, DECODE, TO3D or TORGB would show as a fault is the model's choice,
log 7; LOCATE's four reads need no such guard, since R83's length check and R5's least size put them
inside FILE.) -/
def Obligations.StepNeverLeavesTheMemories : Prop :=
  ∀ (s : State) (e : Fault), s.wf = true → step s ≠ .fault e

/-- R140, and R177, which the spec marks as derived from the commands' rules: in a state that meets
the invariant every command ends with its result, whatever the file, the header and the grid hold;
and no command is ever refused. -/
def Obligations.EveryCommandEnds : Prop :=
  (∀ (i : Instr) (s : State), s.wf = true → ∃ t : State, exec i s = .next t) ∧
    ∀ (i : Instr) (s : State) (r : Refusal), exec i s ≠ .refused r

/-- R25: FAULT is set by every command that finishes with ERR other than 0x00, an illegal byte
among them; no step but a reset clears it, and reset does. -/
def Obligations.OnlyResetClearsFault : Prop :=
  (∀ (c : Byte) (s t : State), hostTransaction (.writeCmd c) s = .next t → t.err ≠ 0x00 →
    t.fault = true) ∧
    (∀ s t : State, step s = .next t → s.fault = true → t.fault = false →
      ∃ rest : List HostTransaction, s.script = .reset :: rest) ∧
    ∀ s t : State, hostTransaction .reset s = .next t → t.fault = false

/-- R25, R148: a run without a reset that has not gone wrong at its end has gone wrong nowhere on
the way. -/
def Obligations.CleanEndMeansCleanRun : Prop :=
  ∀ (k : Nat) (s t : State), runSteps k s = some t → HostTransaction.reset ∉ s.script →
    goneWrong t = false →
      ∀ j : Nat, j ≤ k → ∃ u : State, runSteps j s = some u ∧ goneWrong u = false

/-! ## Host transactions -/

/-- R141, V6: H_LOADFILE of fewer than 2^32 bytes puts every byte into FILE, sets FILE_LEN and
FILE_VALID, clears BLOCK, and leaves the other products, ERR and FAULT; a longer one is refused.
(The script, the reply, the form FILE is held in and the refusal's name are the model's, logs 4, 5,
1 and 8.) -/
def Obligations.LoadFileStoresEveryByte : Prop :=
  ∀ (s : State) (bytes : List Byte) (rest : List HostTransaction),
    s.script = .loadFile bytes :: rest →
      (bytes.length < 2 ^ 32 →
        ∃ f : FileImage,
          step s = .next { s with
            script := rest
            file := some f
            block := none
            hostReply := none } ∧
          f.len.toNat = bytes.length ∧
          ∀ (a : Nat) (v : Byte), bytes[a]? = some v → f.byte a = v) ∧
      (2 ^ 32 ≤ bytes.length → step s = .refused .fileTooLong)

/-- R143, V6: H_LOADGRID with dimensions up to 65535, an order up to 3 and exactly `H * W` samples
gives GRID its shape, order and samples and changes nothing else; any other is refused. (The script,
the reply and the refusals' names are the model's, logs 4, 5 and 8.) -/
def Obligations.LoadGridStoresEverySample : Prop :=
  ∀ (s : State) (h w n : Nat) (samples : List U16) (rest : List HostTransaction),
    s.script = .loadGrid h w n samples :: rest →
      (h ≤ 65535 → w ≤ 65535 → n ≤ 3 →
        (samples.length = h * w →
          ∃ g : Grid,
            step s = .next { s with script := rest, grid := some g, hostReply := none } ∧
            g.h.toNat = h ∧ g.w.toNat = w ∧ (orderCode g.order).toNat = n ∧
            g.samples = samples ∧
            ∀ r c : Nat, r < h → c < w →
              gridElem { s with grid := some g } r c = samples[r * w + c]?) ∧
        (samples.length ≠ h * w → step s = .refused .sampleCountWrong)) ∧
      (65536 ≤ h ∨ 65536 ≤ w ∨ 4 ≤ n → ∃ r : Refusal, step s = .refused r)

/-- R144: H_SETORDER rewrites the order of a valid grid and nothing else; without a grid, or with an
order above 3, it is refused. A write to register 0x42 is H_SETORDER (R26, R76). (The script and
the reply are the model's, logs 4 and 5.) -/
def Obligations.SetOrderRewritesOnlyTheOrder : Prop :=
  ∀ (s : State) (n : Nat) (rest : List HostTransaction), s.script = .setOrder n :: rest →
    (∀ g : Grid, s.grid = some g → n ≤ 3 →
      ∃ o : CfaOrder, (orderCode o).toNat = n ∧
        step s = .next { s with
          script := rest
          grid := some { g with order := o }
          hostReply := none }) ∧
    (s.grid = none ∨ 4 ≤ n → ∃ r : Refusal, step s = .refused r) ∧
    step { s with script := .writeReg 0x42 n :: rest } = step s

/-- R142: H_SETPARAM writes VARIANT and MODE and clears nothing; the two may be written singly, as
registers 0x08 and 0x09. (That they then give no reply is log 5.) -/
def Obligations.SetParamWritesTheParameters : Prop :=
  ∀ (s : State) (v : Variant) (m : Byte),
    hostTransaction (.setParam v m) s =
        .next { s with variant := some v, mode := some m, hostReply := none } ∧
      hostTransaction (.writeReg 0x08 (variantCode v).toNat) s =
        .next { s with variant := some v, hostReply := none } ∧
      hostTransaction (.writeReg 0x09 m.toNat) s =
        .next { s with mode := some m, hostReply := none }

/-- R26, R33: a write to a number that R26 does not list is refused. That a write to a listed number
other than CMD, VARIANT, MODE and GRID_ORDER is refused, and one of a value wider than its register,
is the model's choice (log 9); a write of an order is H_SETORDER (SetOrderRewritesOnlyTheOrder). -/
def Obligations.OtherRegisterWritesAreRefused : Prop :=
  ∀ (s : State) (n value : Nat),
    (n ∉ listedNumbers → hostTransaction (.writeReg n value) s = .refused .reservedRegister) ∧
      (n ∈ listedNumbers → n ∉ [0x00, 0x08, 0x09, 0x42] →
        hostTransaction (.writeReg n value) s = .refused .writeOfReadOnly) ∧
      (n ∈ [0x00, 0x09] → 256 ≤ value →
        hostTransaction (.writeReg n value) s = .refused .valueTooWide) ∧
      (n = 0x08 → 2 ≤ value → hostTransaction (.writeReg n value) s = .refused .valueTooWide)

/-- R40, R53, R145: an H_READ of FILE[a] gives the byte at `a` while FILE is valid and `a` is below
FILE_LEN; of GRID, CH3 and RGB it gives the element at the row-major index of R40 while the space is
valid and the address inside it. It is refused in an invalid space and outside a valid one, and an
H_READ that answers changes nothing. (The value is given back in the model's reply field, log 5; that
these three memories are lists of their elements is log 6.) -/
def Obligations.ReadsAnswerOrAreRefused : Prop :=
  (∀ (s : State) (f : FileImage) (a : Nat), s.file = some f →
    (a < f.len.toNat →
      fileElem s a = some (f.byte a) ∧ readsMem s (.file a) (f.byte a).toNat) ∧
    (f.len.toNat ≤ a → fileElem s a = none ∧ refusesMem s (.file a))) ∧
  (∀ (s : State) (g : Grid) (r c : Nat), s.grid = some g →
    (∀ v : U16, r < g.h.toNat → c < g.w.toNat → g.samples[r * g.w.toNat + c]? = some v →
      gridElem s r c = some v ∧ readsMem s (.grid r c) v.toNat) ∧
    (g.h.toNat ≤ r ∨ g.w.toNat ≤ c → gridElem s r c = none ∧ refusesMem s (.grid r c))) ∧
  (∀ (s : State) (x : ChannelImage) (r c k : Nat), s.ch3 = some x →
    (∀ v : U16, r < x.h.toNat → c < x.w.toNat → k < 3 →
      x.elems[(r * x.w.toNat + c) * 3 + k]? = some v →
        ch3Elem s r c k = some v ∧ readsMem s (.ch3 r c k) v.toNat) ∧
    (x.h.toNat ≤ r ∨ x.w.toNat ≤ c ∨ 3 ≤ k →
      ch3Elem s r c k = none ∧ refusesMem s (.ch3 r c k))) ∧
  (∀ (s : State) (y : RgbImage) (r c k : Nat), s.rgb = some y →
    (∀ v : Q16, r < y.h.toNat → c < y.w.toNat → k < 3 →
      y.elems[(r * y.w.toNat + c) * 3 + k]? = some v →
        rgbElem s r c k = some v ∧ readsMem s (.rgb r c k) v.toNat) ∧
    (y.h.toNat ≤ r ∨ y.w.toNat ≤ c ∨ 3 ≤ k →
      rgbElem s r c k = none ∧ refusesMem s (.rgb r c k))) ∧
  (∀ s : State, (s.file = none → ∀ a : Nat, refusesMem s (.file a)) ∧
    (s.grid = none → ∀ r c : Nat, refusesMem s (.grid r c)) ∧
    (s.ch3 = none → ∀ r c k : Nat, refusesMem s (.ch3 r c k)) ∧
    (s.rgb = none → ∀ r c k : Nat, refusesMem s (.rgb r c k))) ∧
  (∀ (s t : State) (a : MemAddr), hostTransaction (.readMem a) s = .next t →
    ∃ v : Nat, t = { s with hostReply := some (.value v) }) ∧
  ∀ (s t : State) (n k : Nat), hostTransaction (.readReg n k) s = .next t →
    ∃ v : Nat, t = { s with hostReply := some (.value v) }

/-- R26: in every state, STATUS and the error registers read by their numbers, and while a parameter
or a product is present each of its registers reads by its number as the field it names, whatever
else is present. (The value is given back in the model's reply field, log 5.) -/
def Obligations.RegistersReadByNumber : Prop :=
  ∀ s : State,
    readsReg s 0x01 0 (status s).toNat ∧ readsReg s 0x02 0 s.err.toNat ∧
    readsReg s 0x03 0 s.errDim.toNat ∧ readsReg s 0x04 0 s.errVal.toNat ∧
    (∀ v : Variant, s.variant = some v → readsReg s 0x08 0 (variantCode v).toNat) ∧
    (∀ m : Byte, s.mode = some m → readsReg s 0x09 0 m.toNat) ∧
    (∀ f : FileImage, s.file = some f → readsReg s 0x0A 0 f.len.toNat) ∧
    (∀ b : Block, s.block = some b →
      readsReg s 0x10 0 b.base.toNat ∧ readsReg s 0x11 0 b.size.toNat) ∧
    (∀ h : RawHeader, s.hdr = some h →
      (∀ i : Fin 32, readsReg s 0x20 i h.name[i].toNat) ∧
      readsReg s 0x21 0 h.width.toNat ∧ readsReg s 0x22 0 h.height.toNat ∧
      readsReg s 0x23 0 h.padRight.toNat ∧ readsReg s 0x24 0 h.padDown.toNat ∧
      (∀ i : Fin 24, readsReg s 0x25 i h.rsvd[i].toNat) ∧
      readsReg s 0x26 0 h.transform.toNat ∧ readsReg s 0x27 0 h.format.toNat ∧
      readsReg s 0x28 0 h.cfaCode.toNat ∧ readsReg s 0x29 0 h.bitFormat.toNat ∧
      readsReg s 0x2A 0 (orderCode h.order).toNat) ∧
    (∀ g : Grid, s.grid = some g →
      readsReg s 0x40 0 g.h.toNat ∧ readsReg s 0x41 0 g.w.toNat ∧
      readsReg s 0x42 0 (orderCode g.order).toNat) ∧
    (∀ x : ChannelImage, s.ch3 = some x →
      readsReg s 0x50 0 x.h.toNat ∧ readsReg s 0x51 0 x.w.toNat) ∧
    ∀ y : RgbImage, s.rgb = some y →
      readsReg s 0x60 0 y.h.toNat ∧ readsReg s 0x61 0 y.w.toNat

/-- R33: in every state the host can read STATUS, ERR, ERR_DIM and ERR_VAL, and an H_READ of CMD, of
a number that R26 does not list, and of every register whose parameter or product is absent is
refused. An index at or past a register's number of elements is refused too (log 9). So after reset
every other register number, and every memory element, is refused. (The reply field and the
refusals' names are the model's, logs 5 and 8.) -/
def Obligations.ReadsOfNoValueAreRefused : Prop :=
  (∀ s : State,
    (∀ n : Nat, 1 ≤ n → n ≤ 4 → ∃ v : Nat, readsReg s n 0 v) ∧
    ∀ k : Nat,
      refusesReg s 0x00 k ∧ (∀ n : Nat, n ∉ listedNumbers → refusesReg s n k) ∧
      (s.variant = none → refusesReg s 0x08 k) ∧ (s.mode = none → refusesReg s 0x09 k) ∧
      (s.file = none → refusesReg s 0x0A k) ∧
      (s.block = none → ∀ n ∈ [0x10, 0x11], refusesReg s n k) ∧
      (s.hdr = none → ∀ n ∈ headerNumbers, refusesReg s n k) ∧
      (s.grid = none → ∀ n ∈ [0x40, 0x41, 0x42], refusesReg s n k) ∧
      (s.ch3 = none → ∀ n ∈ [0x50, 0x51], refusesReg s n k) ∧
      (s.rgb = none → ∀ n ∈ [0x60, 0x61], refusesReg s n k) ∧
      (1 ≤ k → ∀ n : Nat, n ∉ [0x20, 0x25] → refusesReg s n k) ∧
      (32 ≤ k → refusesReg s 0x20 k) ∧ (24 ≤ k → refusesReg s 0x25 k)) ∧
    (∀ n k : Nat, n = 0 ∨ 5 ≤ n → refusesReg State.reset n k) ∧
    ∀ a : MemAddr, readMemory a State.reset = .refused .readOfNoValue

/-- R33, R157, R173: after a command that failed once its execution had started, an H_READ of the
product it makes is refused, register and element alike, and of a header or a block it cleared too.
(The refusals' names are the model's, log 8.) -/
def Obligations.FailedProductsCannotBeRead : Prop :=
  ∀ s t : State, t.err ≠ 0x00 → t.err ≠ 0xE0 →
    (exec .locate s = .next t →
      ∀ k : Nat, ∀ n ∈ [0x10, 0x11] ++ headerNumbers, refusesReg t n k) ∧
    (exec .parse s = .next t → ∀ k : Nat, ∀ n ∈ headerNumbers, refusesReg t n k) ∧
    (exec .unpack s = .next t →
      (∀ k : Nat, ∀ n ∈ [0x40, 0x41, 0x42], refusesReg t n k) ∧
      ∀ r c : Nat, refusesMem t (.grid r c)) ∧
    (exec .torgb s = .next t →
      (∀ k : Nat, ∀ n ∈ [0x60, 0x61], refusesReg t n k) ∧
      ∀ r c k : Nat, refusesMem t (.rgb r c k)) ∧
    (exec .decode s = .next t →
      (t.err ∈ [(0x10 : Byte), 0x20, 0x21] →
        ∀ k : Nat, ∀ n ∈ [0x10, 0x11] ++ headerNumbers, refusesReg t n k) ∧
      (t.err = 0x30 → ∀ k : Nat, ∀ n ∈ headerNumbers, refusesReg t n k) ∧
      (t.err = 0x40 ∨ t.err = 0x42 →
        (∀ k : Nat, ∀ n ∈ [0x40, 0x41, 0x42], refusesReg t n k) ∧
        ∀ r c : Nat, refusesMem t (.grid r c)))

/-- R22: the bits of STATUS are the valid flags, the reserved 0 and FAULT. -/
def Obligations.StatusBitsAreTheFlags : Prop :=
  ∀ s : State,
    (status s).getLsbD 0 = s.file.isSome ∧ (status s).getLsbD 1 = s.block.isSome ∧
      (status s).getLsbD 2 = s.hdr.isSome ∧ (status s).getLsbD 3 = s.grid.isSome ∧
      (status s).getLsbD 4 = s.ch3.isSome ∧ (status s).getLsbD 5 = s.rgb.isSome ∧
      (status s).getLsbD 6 = false ∧ (status s).getLsbD 7 = s.fault

/-- R173, with R22 and R27: a new file makes PARSE and UNPACK out of sequence until LOCATE is
reissued, and a LOCATE whose execution started makes UNPACK so until PARSE is reissued: without a
block PARSE and UNPACK, and without a header UNPACK, end with SequenceError; and the only step from
a state without a block to one with a block writes LOCATE's or DECODE's byte to CMD, and from one
without a header to one with a header PARSE's or DECODE's. (The script is the model's, log 4.) -/
def Obligations.StaleProductsAreOutOfSequence : Prop :=
  (∀ (s t : State) (bytes : List Byte), hostTransaction (.loadFile bytes) s = .next t →
    t.block = none ∧ ∀ i ∈ [Instr.parse, Instr.unpack],
      exec i t = .next { t with err := 0xE0, errDim := 0, errVal := 0, fault := true }) ∧
    (∀ s t : State, exec .locate s = .next t → t.err ≠ 0xE0 →
      t.hdr = none ∧
        exec .unpack t = .next { t with err := 0xE0, errDim := 0, errVal := 0, fault := true }) ∧
    (∀ s : State,
      (s.block = none → ∀ i ∈ [Instr.parse, Instr.unpack],
        exec i s = .next { s with err := 0xE0, errDim := 0, errVal := 0, fault := true }) ∧
      (s.hdr = none →
        exec .unpack s = .next { s with err := 0xE0, errDim := 0, errVal := 0, fault := true })) ∧
    ∀ s t : State, step s = .next t →
      (s.block = none → t.block ≠ none →
        ∃ (c : Byte) (rest : List HostTransaction),
          (s.script = .writeCmd c :: rest ∨ s.script = .writeReg 0x00 c.toNat :: rest) ∧
          (decode c = .ok .locate ∨ decode c = .ok .decode)) ∧
      (s.hdr = none → t.hdr ≠ none →
        ∃ (c : Byte) (rest : List HostTransaction),
          (s.script = .writeCmd c :: rest ∨ s.script = .writeReg 0x00 c.toNat :: rest) ∧
          (decode c = .ok .parse ∨ decode c = .ok .decode))
end

