-- ==== Sys2Proof/Laws/Memory.lean ====
section
/-! SUPPORT. What the memories' operations do: FILE keeps its canonical form and reads back the
bytes loaded into it; a row-major memory has the element it was built with at every position. -/

namespace Sys2Proof.Machine

/-! ## FILE -/

@[simp] theorem Memory.read_nil (a : Nat) : Memory.read [] a = Memory.unlisted := rfl

/-- Nothing is listed below the address a list of bytes is laid from. -/
theorem Memory.ofBytes_bounds (bytes : List Byte) :
    ∀ (a : Nat), ∀ c ∈ Memory.ofBytes a bytes,
      a ≤ c.1 ∧ c.1 < a + bytes.length ∧ c.2 ≠ Memory.unlisted := by
  induction bytes with
  | nil => intro a c hc; simp [Memory.ofBytes] at hc
  | cons v rest ih =>
    intro a c hc
    simp only [Memory.ofBytes] at hc
    split at hc
    · have := ih (a + 1) c hc
      simp only [List.length_cons]
      exact ⟨by omega, by omega, this.2.2⟩
    · rename_i hv
      rcases List.mem_cons.1 hc with rfl | hc
      · simp only [List.length_cons]
        exact ⟨le_refl _, by omega, hv⟩
      · have := ih (a + 1) c hc
        simp only [List.length_cons]
        exact ⟨by omega, by omega, this.2.2⟩

/-- The cells of a list of bytes rise strictly. -/
theorem Memory.ofBytes_rising (bytes : List Byte) :
    ∀ a : Nat, (Memory.ofBytes a bytes).Pairwise fun x y => x.1 < y.1 := by
  induction bytes with
  | nil => intro a; simp [Memory.ofBytes]
  | cons v rest ih =>
    intro a
    simp only [Memory.ofBytes]
    split
    · exact ih (a + 1)
    · refine List.pairwise_cons.2 ⟨fun c hc => ?_, ih (a + 1)⟩
      have := (Memory.ofBytes_bounds rest (a + 1) c hc).1
      simpa using by omega

/-- Loading bytes gives the canonical form. -/
theorem Memory.ofBytes_wf (bytes : List Byte) :
    Memory.wf bytes.length (Memory.ofBytes 0 bytes) = true := by
  simp only [Memory.wf, Bool.and_eq_true, decide_eq_true_eq, List.all_eq_true]
  refine ⟨Memory.ofBytes_rising bytes 0, fun c hc => ?_⟩
  have := Memory.ofBytes_bounds bytes 0 c hc
  exact ⟨by omega, this.2.2⟩

/-- An address no cell has reads as unlisted. -/
theorem Memory.read_of_forall_ne (m : Memory) (a : Nat) (h : ∀ c ∈ m, c.1 ≠ a) :
    m.read a = Memory.unlisted := by
  induction m with
  | nil => rfl
  | cons c rest ih =>
    obtain ⟨k, v⟩ := c
    have hk : a ≠ k := fun e => h (k, v) (by simp) e.symm
    simp only [Memory.read, if_neg hk]
    exact ih fun c hc => h c (by simp [hc])

/-- Every loaded byte reads back. -/
theorem Memory.read_ofBytes (bytes : List Byte) :
    ∀ (a i : Nat), i < bytes.length →
      (Memory.ofBytes a bytes).read (a + i) = bytes.getD i Memory.unlisted := by
  induction bytes with
  | nil => intro a i hi; simp at hi
  | cons v rest ih =>
    intro a i hi
    cases i with
    | zero =>
      simp only [Memory.ofBytes, Nat.add_zero, List.getD_cons_zero]
      split
      · rename_i hv
        rw [Memory.read_of_forall_ne _ _ fun c hc => ?_, hv]
        have := (Memory.ofBytes_bounds rest (a + 1) c hc).1
        omega
      · simp [Memory.read]
    | succ j =>
      have hj : j < rest.length := by simpa using hi
      have key := ih (a + 1) j hj
      have e : a + (j + 1) = a + 1 + j := by omega
      simp only [Memory.ofBytes, List.getD_cons_succ]
      split
      · rw [e, key]
      · have hne : a + (j + 1) ≠ a := by omega
        simp only [Memory.read, if_neg hne]
        rw [e, key]

/-- H_LOADFILE's file is in canonical form. -/
theorem FileImage.ofBytes_wf (bytes : List Byte) (h : bytes.length < 2 ^ 32) :
    (FileImage.ofBytes bytes).wf = true := by
  simp only [FileImage.wf, FileImage.ofBytes, BitVec.toNat_ofNat, Nat.mod_eq_of_lt h]
  exact Memory.ofBytes_wf bytes

/-! ## Row-major memories -/

/-- The length of a concatenation of rows of one length. -/
theorem length_flatMap_rows {α : Type} (n : Nat) (f : Nat → List α) (hf : ∀ r, (f r).length = n) :
    ∀ h : Nat, ((List.range h).flatMap f).length = h * n := by
  intro h
  induction h with
  | zero => simp
  | succ k ih => rw [List.range_succ, List.flatMap_append, List.length_append, ih]; simp [hf, Nat.succ_mul]

/-- Row `r`, element `c` of a concatenation of rows of one length. -/
theorem getElem?_flatMap_rows {α : Type} (n : Nat) (f : Nat → List α)
    (hf : ∀ r, (f r).length = n) :
    ∀ h r c : Nat, r < h → c < n → ((List.range h).flatMap f)[r * n + c]? = (f r)[c]? := by
  intro h
  induction h with
  | zero => intro r c hr; omega
  | succ k ih =>
    intro r c hr hc
    rw [List.range_succ, List.flatMap_append]
    have hlen := length_flatMap_rows n f hf k
    by_cases hrk : r < k
    · have : r * n + c < k * n := by
        calc r * n + c < r * n + n := by omega
          _ = (r + 1) * n := by ring
          _ ≤ k * n := Nat.mul_le_mul_right n hrk
      rw [List.getElem?_append_left (by omega)]
      exact ih r c hrk hc
    · have : r = k := by omega
      subst this
      rw [List.getElem?_append_right (by omega), hlen]
      simp

@[simp] theorem length_tabulate {α : Type} (h w : Nat) (f : Nat → Nat → α) :
    (tabulate h w f).length = h * w :=
  length_flatMap_rows w _ (by simp) h

/-- The element of a row-major array at a position inside it. -/
theorem getElem?_tabulate {α : Type} {h w r c : Nat} (f : Nat → Nat → α) (hr : r < h)
    (hc : c < w) : (tabulate h w f)[r * w + c]? = some (f r c) := by
  rw [tabulate, getElem?_flatMap_rows w _ (by simp) h r c hr hc]
  simp [hc]

/-- One row of an `h × w × 3` array has `w * 3` elements. -/
theorem length_row3 {α : Type} (w : Nat) (f : Nat → Nat → α) :
    ((List.range w).flatMap fun c => (List.range 3).map (f c)).length = w * 3 :=
  length_flatMap_rows 3 _ (by simp) w

@[simp] theorem length_tabulate3 {α : Type} (h w : Nat) (f : Nat → Nat → Nat → α) :
    (tabulate3 h w f).length = h * w * 3 := by
  rw [tabulate3, length_flatMap_rows (w * 3) _ (fun r => length_row3 w (f r)) h, Nat.mul_assoc]

/-- The element of an `h × w × 3` array at a position inside it. -/
theorem getElem?_tabulate3 {α : Type} {h w r c k : Nat} (f : Nat → Nat → Nat → α) (hr : r < h)
    (hc : c < w) (hk : k < 3) : (tabulate3 h w f)[(r * w + c) * 3 + k]? = some (f r c k) := by
  have e : (r * w + c) * 3 + k = r * (w * 3) + (c * 3 + k) := by ring
  rw [e, tabulate3, getElem?_flatMap_rows (w * 3) _ (fun r => length_row3 w (f r)) h r _ hr (by omega),
    getElem?_flatMap_rows 3 _ (by simp) w c k hc hk]
  simp [hk]

/-- What holds of every element function holds of every element of a row-major array. -/
theorem forall_mem_tabulate {α : Type} {h w : Nat} {f : Nat → Nat → α} {p : α → Prop}
    (hp : ∀ r c, r < h → c < w → p (f r c)) : ∀ x ∈ tabulate h w f, p x := by
  intro x hx
  simp only [tabulate, List.mem_flatMap, List.mem_map, List.mem_range] at hx
  obtain ⟨r, hr, c, hc, rfl⟩ := hx
  exact hp r c hr hc

/-- A sized grid has the sample its list holds at every position inside it. -/
theorem Grid.getElem?_at {g : Grid} (hg : g.sized = true) {r c : Nat} (hr : r < g.h.toNat)
    (hc : c < g.w.toNat) : g.samples[r * g.w.toNat + c]? = some (g.at r c) := by
  have hlen : g.samples.length = g.h.toNat * g.w.toNat := by simpa [Grid.sized] using hg
  have hlt : r * g.w.toNat + c < g.samples.length := by
    rw [hlen]
    calc r * g.w.toNat + c < r * g.w.toNat + g.w.toNat := by omega
      _ = (r + 1) * g.w.toNat := by ring
      _ ≤ g.h.toNat * g.w.toNat := Nat.mul_le_mul_right _ hr
  simp [Grid.at, List.getD_eq_getElem?_getD, List.getElem?_eq_getElem hlt]

end Sys2Proof.Machine
end

