-- ==== Sys2Proof/Laws/Stages.lean ====
section
/-! SUPPORT. What each shared operation and each stage body can do, said once; later proofs cite
these and do not unfold. -/

namespace Sys2Proof.Machine

/-! ## The end of a command and the composition of stages -/

/-- A finished command goes on from a product or from a cause. -/
theorem finish_next {α : Type} {x : Stage α} {t : State} (h : finish x = .next t) :
    (∃ a s, x = .done a s ∧ t = succeed s) ∨ (∃ c s, x = .raised c s ∧ t = raise c s) := by
  cases x with
  | done a s => exact .inl ⟨a, s, rfl, by injection h with h; exact h.symm⟩
  | raised c s => exact .inr ⟨c, s, rfl, by injection h with h; exact h.symm⟩
  | stuck f => simp [finish] at h

/-- A command stops only where its body is stuck. -/
theorem finish_fault {α : Type} {x : Stage α} {f : Fault} (h : finish x = .fault f) :
    x = .stuck f := by
  cases x with
  | done a s => simp [finish] at h
  | raised c s => simp [finish] at h
  | stuck g => injection h with h; rw [h]

/-- No command refuses. -/
theorem finish_ne_refused {α : Type} (x : Stage α) (r : Refusal) : finish x ≠ .refused r := by
  cases x <;> simp [finish]

@[simp] theorem andThen_done {α β : Type} (a : α) (s : State) (k : α → State → Stage β) :
    andThen (.done a s) k = k a s := rfl

@[simp] theorem andThen_raised {α β : Type} (c : Cause) (s : State) (k : α → State → Stage β) :
    andThen (.raised c s : Stage α) k = .raised c s := rfl

@[simp] theorem andThen_stuck {α β : Type} (f : Fault) (k : α → State → Stage β) :
    andThen (.stuck f : Stage α) k = .stuck f := rfl

/-! ## LOCATE -/

/-- A located block is the trailing slice of the table's size, and it starts with the marker. -/
theorem locate_ok {table : Config.BlockSizeTable} {f : FileImage} {v : Variant} {m : Byte}
    {b : Block} (h : locate table f v m = .ok b) :
    blockSize table v m = some b.size ∧ b.size.toNat ≤ f.len.toNat ∧ b.base = f.len - b.size ∧
      (List.range 4).map (blockByte f b) = marker := by
  simp only [locate] at h
  split at h
  · cases h
  · rename_i size hsize
    split at h
    · cases h
    · split at h
      · rename_i hlen hmark
        injection h with h
        subst h
        exact ⟨hsize, by simpa using hlen, rfl, hmark⟩
      · cases h

/-- A present entry of any table is in range. -/
theorem blockSize_inRange {table : Config.BlockSizeTable} {v : Variant} {m : Byte} {size : U32}
    (h : blockSize table v m = some size) : 32768 ≤ size.toNat := by
  simp only [blockSize] at h
  split at h
  · obtain ⟨e, -, rfl⟩ := Option.map_eq_some_iff.1 h
    exact e.inRange
  · cases h

/-- The body of LOCATE locates or raises what `locate` raises; it never sticks. -/
theorem locateBody_cases (table : Config.BlockSizeTable) (f : FileImage) (v : Variant) (m : Byte)
    (s : State) :
    (∃ b, locate table f v m = .ok b ∧
      locateBody table f v m s = .done b { s with block := some b, hdr := none }) ∨
    (∃ c, locate table f v m = .error c ∧
      locateBody table f v m s = .raised c { s with block := none, hdr := none }) := by
  cases h : locate table f v m with
  | ok b => exact .inl ⟨b, rfl, by simp [locateBody, h]⟩
  | error c => exact .inr ⟨c, rfl, by simp [locateBody, h]⟩

/-- LOCATE raises the code of one of three causes. -/
theorem locate_error {table : Config.BlockSizeTable} {f : FileImage} {v : Variant} {m : Byte}
    {c : Cause} (h : locate table f v m = .error c) :
    c = .unknownSensorMode ∨ c = .blockMissing ∨ c = .malformedContainer := by
  simp only [locate] at h
  split at h
  · injection h with h; exact .inl h.symm
  · split at h
    · injection h with h; exact .inr (.inl h.symm)
    · split at h
      · cases h
      · injection h with h; exact .inr (.inr h.symm)

/-! ## PARSE -/

/-- The body of PARSE latches the header, rejects the CFA code, or has no file bytes to read. -/
theorem parseBody_cases (b : Block) (s : State) :
    (∃ f order, s.file = some f ∧ blockInFile f b (headerOffset + headerSize) = true ∧
      cfaOrder (blockByte f b (headerOffset + 68)) = some order ∧
      parseBody b s = .done (headerFields (blockByte f b) order)
        { s with hdr := some (headerFields (blockByte f b) order) }) ∨
    (∃ f, s.file = some f ∧ blockInFile f b (headerOffset + headerSize) = true ∧
      cfaOrder (blockByte f b (headerOffset + 68)) = none ∧
      parseBody b s = .raised .unrecognizedCfaCode { s with hdr := none }) ∨
    ((∀ f, s.file = some f → blockInFile f b (headerOffset + headerSize) = false) ∧
      parseBody b s = .stuck .fileOutOfRange) := by
  cases hf : s.file with
  | none => exact .inr (.inr ⟨by simp, by simp [parseBody, hf]⟩)
  | some f =>
    cases hin : blockInFile f b (headerOffset + headerSize) with
    | false => exact .inr (.inr ⟨by simpa using hin, by simp [parseBody, hf, hin]⟩)
    | true =>
      cases ho : cfaOrder (blockByte f b (headerOffset + 68)) with
      | none => exact .inr (.inl ⟨f, rfl, hin, ho, by simp [parseBody, parseHeader, hf, hin, ho]⟩)
      | some o =>
        exact .inl ⟨f, o, rfl, hin, ho, by simp [parseBody, parseHeader, hf, hin, ho]⟩

/-- A number that names an order is the order's own code. -/
theorem orderOfCode_some {n : Nat} {o : CfaOrder} (h : orderOfCode n = some o) :
    n = (orderCode o).toNat := by
  unfold orderOfCode at h
  split at h <;> first | (injection h with h; subst h; rfl) | cases h

/-- A parsed header is well-formed. -/
theorem headerFields_wf {bytes : Nat → Byte} {o : CfaOrder}
    (h : cfaOrder (bytes (headerOffset + 68)) = some o) : (headerFields bytes o).wf = true := by
  rw [RawHeader.wf, decide_eq_true_eq]
  exact orderOfCode_some h

/-! ## UNPACK -/

/-- The body of UNPACK makes the grid, rejects the size, rejects the row width, or has no file
bytes to read. -/
theorem unpackBody_cases (b : Block) (h : RawHeader) (s : State) :
    (∃ f, s.file = some f ∧ geometrySize h = b.size.toNat ∧ cropBytes h % 5 = 0 ∧
      blockInFile f b b.size.toNat = true ∧
      unpackBody b h s = .done (unpackGrid (blockByte f b) h)
        { s with grid := some (unpackGrid (blockByte f b) h) }) ∨
    (geometrySize h ≠ b.size.toNat ∧
      unpackBody b h s = .raised .blockSizeMismatch { s with grid := none }) ∨
    (geometrySize h = b.size.toNat ∧ cropBytes h % 5 ≠ 0 ∧
      unpackBody b h s = .raised .invalidRowWidth { s with grid := none }) ∨
    (geometrySize h = b.size.toNat ∧ cropBytes h % 5 = 0 ∧
      (∀ f, s.file = some f → blockInFile f b b.size.toNat = false) ∧
      unpackBody b h s = .stuck .fileOutOfRange) := by
  by_cases hs : geometrySize h = b.size.toNat
  · by_cases hc : cropBytes h % 5 = 0
    · cases hf : s.file with
      | none => exact .inr (.inr (.inr ⟨hs, hc, by simp, by simp [unpackBody, hs, hc, hf]⟩))
      | some f =>
        cases hin : blockInFile f b b.size.toNat with
        | false =>
          exact .inr (.inr (.inr ⟨hs, hc, by simpa using hin, by simp [unpackBody, hs, hc, hf, hin]⟩))
        | true => exact .inl ⟨f, rfl, hs, hc, hin, by simp [unpackBody, hs, hc, hf, hin]⟩
    · exact .inr (.inr (.inl ⟨hs, hc, by simp [unpackBody, hs, hc]⟩))
  · exact .inr (.inl ⟨hs, by simp [unpackBody, hs]⟩)

/-- An unpacked grid holds exactly its elements. -/
theorem unpackGrid_sized (bytes : Nat → Byte) (h : RawHeader) :
    (unpackGrid bytes h).sized = true := by
  rw [Grid.sized, decide_eq_true_eq]
  exact length_tabulate _ _ _

/-! ## TO3D and TORGB -/

/-- The body of TO3D makes the image of a sized grid. -/
theorem to3dBody_cases (g : Grid) (s : State) :
    (g.sized = true ∧ to3dBody g s = .done (to3dImage g) { s with ch3 := some (to3dImage g) }) ∨
    (g.sized = false ∧ to3dBody g s = .stuck .gridOutOfRange) := by
  cases hg : g.sized with
  | true => exact .inl ⟨rfl, by simp [to3dBody, hg]⟩
  | false => exact .inr ⟨rfl, by simp [to3dBody, hg]⟩

/-- The body of TORGB names an odd width, then an odd height, and else makes the image of a sized
grid. -/
theorem torgbBody_cases (g : Grid) (s : State) :
    (g.w.toNat % 2 = 1 ∧
      torgbBody g s = .raised (.unevenDimension .width g.w) { s with rgb := none }) ∨
    (g.w.toNat % 2 = 0 ∧ g.h.toNat % 2 = 1 ∧
      torgbBody g s = .raised (.unevenDimension .height g.h) { s with rgb := none }) ∨
    (g.w.toNat % 2 = 0 ∧ g.h.toNat % 2 = 0 ∧ g.sized = true ∧
      torgbBody g s = .done (toRgbImage g) { s with rgb := some (toRgbImage g) }) ∨
    (g.w.toNat % 2 = 0 ∧ g.h.toNat % 2 = 0 ∧ g.sized = false ∧
      torgbBody g s = .stuck .gridOutOfRange) := by
  rcases Nat.mod_two_eq_zero_or_one g.w.toNat with hw | hw
  · rcases Nat.mod_two_eq_zero_or_one g.h.toNat with hh | hh
    · cases hg : g.sized with
      | true => exact .inr (.inr (.inl ⟨hw, hh, rfl, by simp [torgbBody, hw, hh, hg]⟩))
      | false => exact .inr (.inr (.inr ⟨hw, hh, rfl, by simp [torgbBody, hw, hh, hg]⟩))
    · exact .inr (.inl ⟨hw, hh, by simp [torgbBody, hw, hh]⟩)
  · exact .inl ⟨hw, by simp [torgbBody, hw]⟩

/-! ## DECODE -/

/-- DECODE's body is LOCATE's, then PARSE's on the block found, then UNPACK's on the header found,
up to the first that does not succeed. -/
theorem decodeBody_cases (table : Config.BlockSizeTable) (f : FileImage) (v : Variant) (m : Byte)
    (s : State) :
    (∃ c s1, locateBody table f v m s = .raised c s1 ∧
      decodeBody table f v m s = .raised c s1) ∨
    (∃ b s1, locateBody table f v m s = .done b s1 ∧
      ((∃ c s2, parseBody b s1 = .raised c s2 ∧ decodeBody table f v m s = .raised c s2) ∨
       (∃ e, parseBody b s1 = .stuck e ∧ decodeBody table f v m s = .stuck e) ∨
       (∃ h s2, parseBody b s1 = .done h s2 ∧
         decodeBody table f v m s = unpackBody b h s2))) := by
  rcases locateBody_cases table f v m s with ⟨b, -, hl⟩ | ⟨c, -, hl⟩
  · refine .inr ⟨b, _, hl, ?_⟩
    cases hp : parseBody b { s with block := some b, hdr := none } with
    | done h s2 => exact .inr (.inr ⟨h, s2, rfl, by simp [decodeBody, hl, hp]⟩)
    | raised c s2 => exact .inl ⟨c, s2, rfl, by simp [decodeBody, hl, hp]⟩
    | stuck e => exact .inr (.inl ⟨e, rfl, by simp [decodeBody, hl, hp]⟩)
  · exact .inl ⟨c, _, hl, by simp [decodeBody, hl]⟩

end Sys2Proof.Machine
end

