-- ==== Sys2Proof/Laws/State.lean ====
section
/-! SUPPORT. One lemma per field per named update of State, each true by unfolding once. -/

namespace Sys2Proof.Machine

/-! ## Error entry -/

@[simp] theorem raise_variant (c : Cause) (s : State) :
    (raise c s).variant = s.variant := rfl

@[simp] theorem raise_mode (c : Cause) (s : State) :
    (raise c s).mode = s.mode := rfl

@[simp] theorem raise_file (c : Cause) (s : State) :
    (raise c s).file = s.file := rfl

@[simp] theorem raise_block (c : Cause) (s : State) :
    (raise c s).block = s.block := rfl

@[simp] theorem raise_hdr (c : Cause) (s : State) :
    (raise c s).hdr = s.hdr := rfl

@[simp] theorem raise_grid (c : Cause) (s : State) :
    (raise c s).grid = s.grid := rfl

@[simp] theorem raise_ch3 (c : Cause) (s : State) :
    (raise c s).ch3 = s.ch3 := rfl

@[simp] theorem raise_rgb (c : Cause) (s : State) :
    (raise c s).rgb = s.rgb := rfl

@[simp] theorem raise_err (c : Cause) (s : State) :
    (raise c s).err = causeCode c := rfl

@[simp] theorem raise_errDim (c : Cause) (s : State) :
    (raise c s).errDim = causeDim c := rfl

@[simp] theorem raise_errVal (c : Cause) (s : State) :
    (raise c s).errVal = causeVal c := rfl

@[simp] theorem raise_fault (c : Cause) (s : State) :
    (raise c s).fault = true := rfl

@[simp] theorem raise_script (c : Cause) (s : State) :
    (raise c s).script = s.script := rfl

@[simp] theorem raise_hostReply (c : Cause) (s : State) :
    (raise c s).hostReply = s.hostReply := rfl

/-! ## The successful end of a command -/

@[simp] theorem succeed_variant (s : State) :
    (succeed s).variant = s.variant := rfl

@[simp] theorem succeed_mode (s : State) :
    (succeed s).mode = s.mode := rfl

@[simp] theorem succeed_file (s : State) :
    (succeed s).file = s.file := rfl

@[simp] theorem succeed_block (s : State) :
    (succeed s).block = s.block := rfl

@[simp] theorem succeed_hdr (s : State) :
    (succeed s).hdr = s.hdr := rfl

@[simp] theorem succeed_grid (s : State) :
    (succeed s).grid = s.grid := rfl

@[simp] theorem succeed_ch3 (s : State) :
    (succeed s).ch3 = s.ch3 := rfl

@[simp] theorem succeed_rgb (s : State) :
    (succeed s).rgb = s.rgb := rfl

@[simp] theorem succeed_err (s : State) :
    (succeed s).err = 0x00 := rfl

@[simp] theorem succeed_errDim (s : State) :
    (succeed s).errDim = 0 := rfl

@[simp] theorem succeed_errVal (s : State) :
    (succeed s).errVal = 0 := rfl

@[simp] theorem succeed_fault (s : State) :
    (succeed s).fault = s.fault := rfl

@[simp] theorem succeed_script (s : State) :
    (succeed s).script = s.script := rfl

@[simp] theorem succeed_hostReply (s : State) :
    (succeed s).hostReply = s.hostReply := rfl

/-! ## The return of a CMD write -/

@[simp] theorem commandReturn_variant (s : State) :
    (commandReturn s).variant = s.variant := rfl

@[simp] theorem commandReturn_mode (s : State) :
    (commandReturn s).mode = s.mode := rfl

@[simp] theorem commandReturn_file (s : State) :
    (commandReturn s).file = s.file := rfl

@[simp] theorem commandReturn_block (s : State) :
    (commandReturn s).block = s.block := rfl

@[simp] theorem commandReturn_hdr (s : State) :
    (commandReturn s).hdr = s.hdr := rfl

@[simp] theorem commandReturn_grid (s : State) :
    (commandReturn s).grid = s.grid := rfl

@[simp] theorem commandReturn_ch3 (s : State) :
    (commandReturn s).ch3 = s.ch3 := rfl

@[simp] theorem commandReturn_rgb (s : State) :
    (commandReturn s).rgb = s.rgb := rfl

@[simp] theorem commandReturn_err (s : State) :
    (commandReturn s).err = s.err := rfl

@[simp] theorem commandReturn_errDim (s : State) :
    (commandReturn s).errDim = s.errDim := rfl

@[simp] theorem commandReturn_errVal (s : State) :
    (commandReturn s).errVal = s.errVal := rfl

@[simp] theorem commandReturn_fault (s : State) :
    (commandReturn s).fault = s.fault := rfl

@[simp] theorem commandReturn_script (s : State) :
    (commandReturn s).script = s.script := rfl

@[simp] theorem commandReturn_hostReply (s : State) :
    (commandReturn s).hostReply = some (.result s.err s.errDim s.errVal) := rfl

/-! ## The CMD write placed next -/

@[simp] theorem withFetchWord_variant (s : State) (nbits w : Nat) :
    (s.withFetchWord nbits w).variant = s.variant := rfl

@[simp] theorem withFetchWord_mode (s : State) (nbits w : Nat) :
    (s.withFetchWord nbits w).mode = s.mode := rfl

@[simp] theorem withFetchWord_file (s : State) (nbits w : Nat) :
    (s.withFetchWord nbits w).file = s.file := rfl

@[simp] theorem withFetchWord_block (s : State) (nbits w : Nat) :
    (s.withFetchWord nbits w).block = s.block := rfl

@[simp] theorem withFetchWord_hdr (s : State) (nbits w : Nat) :
    (s.withFetchWord nbits w).hdr = s.hdr := rfl

@[simp] theorem withFetchWord_grid (s : State) (nbits w : Nat) :
    (s.withFetchWord nbits w).grid = s.grid := rfl

@[simp] theorem withFetchWord_ch3 (s : State) (nbits w : Nat) :
    (s.withFetchWord nbits w).ch3 = s.ch3 := rfl

@[simp] theorem withFetchWord_rgb (s : State) (nbits w : Nat) :
    (s.withFetchWord nbits w).rgb = s.rgb := rfl

@[simp] theorem withFetchWord_err (s : State) (nbits w : Nat) :
    (s.withFetchWord nbits w).err = s.err := rfl

@[simp] theorem withFetchWord_errDim (s : State) (nbits w : Nat) :
    (s.withFetchWord nbits w).errDim = s.errDim := rfl

@[simp] theorem withFetchWord_errVal (s : State) (nbits w : Nat) :
    (s.withFetchWord nbits w).errVal = s.errVal := rfl

@[simp] theorem withFetchWord_fault (s : State) (nbits w : Nat) :
    (s.withFetchWord nbits w).fault = s.fault := rfl

@[simp] theorem withFetchWord_script (s : State) (nbits w : Nat) :
    (s.withFetchWord nbits w).script = .writeCmd (BitVec.ofNat 8 (w % 2 ^ nbits)) :: s.script := rfl

@[simp] theorem withFetchWord_hostReply (s : State) (nbits w : Nat) :
    (s.withFetchWord nbits w).hostReply = s.hostReply := rfl

/-! ## Reset -/

/-- Reset leaves the reset state with the host's transactions still to come. -/
theorem resetKeepingScript_eq (s : State) :
    resetKeepingScript s = { State.reset with script := s.script } := rfl

@[simp] theorem resetKeepingScript_script (s : State) :
    (resetKeepingScript s).script = s.script := rfl

@[simp] theorem resetKeepingScript_fault (s : State) :
    (resetKeepingScript s).fault = false := rfl

@[simp] theorem resetKeepingScript_err (s : State) :
    (resetKeepingScript s).err = 0x00 := rfl

/-! ## The Boolean checks of the operations -/

theorem blockInFile_iff (f : FileImage) (b : Block) (n : Nat) :
    blockInFile f b n = true ↔ b.base.toNat + n ≤ f.len.toNat := decide_eq_true_iff

theorem Grid.sized_iff (g : Grid) :
    g.sized = true ↔ g.samples.length = g.h.toNat * g.w.toNat := decide_eq_true_iff

theorem RawHeader.geometrySize_eq (h : RawHeader) :
    geometrySize h = 32768 + heightPadded h * byteRowWidth h := rfl

end Sys2Proof.Machine
end

