-- ==== Sys2Proof/Laws/Commands.lean ====
section
/-! SUPPORT. What each command can do, said once: out of sequence exactly when an input it checks
holds no value, and else its body run to its end. -/

namespace Sys2Proof.Machine

/-- No cause has the code of success. -/
@[simp] theorem causeCode_ne_ok (c : Cause) : causeCode c ≠ 0#8 := by
  cases c <;> simp [causeCode]

/-- LOCATE out of sequence, or its body. -/
theorem execLocate_cases (s : State) :
    ((s.file = none ∨ s.variant = none ∨ s.mode = none) ∧
      exec .locate s = .next (raise .sequenceError s)) ∨
    ∃ f v m, s.file = some f ∧ s.variant = some v ∧ s.mode = some m ∧
      exec .locate s = finish (locateBody blockSizeTable f v m s) := by
  cases hf : s.file with
  | none => exact .inl ⟨by simp, by simp [exec, execLocate, locateWith, hf, outOfSequence]⟩
  | some f =>
    cases hv : s.variant with
    | none => exact .inl ⟨by simp, by simp [exec, execLocate, locateWith, hf, hv, outOfSequence]⟩
    | some v =>
      cases hm : s.mode with
      | none =>
        exact .inl ⟨by simp, by simp [exec, execLocate, locateWith, hf, hv, hm, outOfSequence]⟩
      | some m =>
        exact .inr ⟨f, v, m, rfl, rfl, rfl, by simp [exec, execLocate, locateWith, hf, hv, hm]⟩

/-- PARSE out of sequence, or its body. -/
theorem execParse_cases (s : State) :
    (s.block = none ∧ exec .parse s = .next (raise .sequenceError s)) ∨
    ∃ b, s.block = some b ∧ exec .parse s = finish (parseBody b s) := by
  cases hb : s.block with
  | none => exact .inl ⟨rfl, by simp [exec, execParse, hb, outOfSequence]⟩
  | some b => exact .inr ⟨b, rfl, by simp [exec, execParse, hb]⟩

/-- UNPACK out of sequence, or its body. -/
theorem execUnpack_cases (s : State) :
    ((s.block = none ∨ s.hdr = none) ∧ exec .unpack s = .next (raise .sequenceError s)) ∨
    ∃ b h, s.block = some b ∧ s.hdr = some h ∧ exec .unpack s = finish (unpackBody b h s) := by
  cases hb : s.block with
  | none => exact .inl ⟨by simp, by simp [exec, execUnpack, hb, outOfSequence]⟩
  | some b =>
    cases hh : s.hdr with
    | none => exact .inl ⟨by simp, by simp [exec, execUnpack, hb, hh, outOfSequence]⟩
    | some h => exact .inr ⟨b, h, rfl, rfl, by simp [exec, execUnpack, hb, hh]⟩

/-- TO3D out of sequence, or its body. -/
theorem execTo3d_cases (s : State) :
    (s.grid = none ∧ exec .to3d s = .next (raise .sequenceError s)) ∨
    ∃ g, s.grid = some g ∧ exec .to3d s = finish (to3dBody g s) := by
  cases hg : s.grid with
  | none => exact .inl ⟨rfl, by simp [exec, execTo3d, hg, outOfSequence]⟩
  | some g => exact .inr ⟨g, rfl, by simp [exec, execTo3d, hg]⟩

/-- TORGB out of sequence, or its body. -/
theorem execTorgb_cases (s : State) :
    (s.grid = none ∧ exec .torgb s = .next (raise .sequenceError s)) ∨
    ∃ g, s.grid = some g ∧ exec .torgb s = finish (torgbBody g s) := by
  cases hg : s.grid with
  | none => exact .inl ⟨rfl, by simp [exec, execTorgb, hg, outOfSequence]⟩
  | some g => exact .inr ⟨g, rfl, by simp [exec, execTorgb, hg]⟩

/-- DECODE out of sequence, or its body. -/
theorem execDecode_cases (s : State) :
    ((s.file = none ∨ s.variant = none ∨ s.mode = none) ∧
      exec .decode s = .next (raise .sequenceError s)) ∨
    ∃ f v m, s.file = some f ∧ s.variant = some v ∧ s.mode = some m ∧
      exec .decode s = finish (decodeBody blockSizeTable f v m s) := by
  cases hf : s.file with
  | none => exact .inl ⟨by simp, by simp [exec, execDecode, decodeWith, hf, outOfSequence]⟩
  | some f =>
    cases hv : s.variant with
    | none => exact .inl ⟨by simp, by simp [exec, execDecode, decodeWith, hf, hv, outOfSequence]⟩
    | some v =>
      cases hm : s.mode with
      | none =>
        exact .inl ⟨by simp, by simp [exec, execDecode, decodeWith, hf, hv, hm, outOfSequence]⟩
      | some m =>
        exact .inr ⟨f, v, m, rfl, rfl, rfl, by simp [exec, execDecode, decodeWith, hf, hv, hm]⟩

end Sys2Proof.Machine
end

