-- ==== Sys2Proof/Laws/HostPort.lean ====
section
/-! SUPPORT. What each host transaction can do, said once. -/

namespace Sys2Proof.Machine

/-- A register read that answers changes only the reply. -/
theorem readRegister_next {n k : Nat} {s t : State} (h : readRegister n k s = .next t) :
    ∃ v, t = { s with hostReply := some (.value v) } := by
  unfold readRegister at h
  split at h
  · cases h
  · cases h
  · split at h
    · split at h
      · rename_i v _
        exact ⟨v, by injection h with h; exact h.symm⟩
      · cases h
    · cases h

/-- A memory read that answers changes only the reply, which is the element's value. -/
theorem readMemory_next {a : MemAddr} {s t : State} (h : readMemory a s = .next t) :
    ∃ v, memValue s a = some v ∧ t = { s with hostReply := some (.value v) } := by
  unfold readMemory at h
  split at h
  · split at h
    · rename_i v hv
      exact ⟨v, hv, by injection h with h; exact h.symm⟩
    · cases h
  · cases h

/-- A register that holds a value is read as that value. -/
theorem readRegister_of_value {n k v : Nat} {r : Reg} {s : State} (hn : regOfNumber n = some r)
    (hk : k < regElements r) (hv : regValue s k r = some v) :
    readRegister n k s = replyWith v s := by
  cases r with
  | cmd => cases hv
  | _ => simp only [readRegister, hn, if_pos hk, hv]

/-- A number that names no register, or one that holds no value, is not read. -/
theorem readRegister_of_none {n k : Nat} {s : State}
    (h : ∀ r, regOfNumber n = some r → regValue s k r = none) :
    ∃ e, readRegister n k s = .refused e := by
  cases ho : readRegister n k s with
  | refused e => exact ⟨e, rfl⟩
  | fault e =>
    unfold readRegister at ho
    repeat' split at ho
    all_goals cases ho
  | next t =>
    unfold readRegister at ho
    split at ho
    · cases ho
    · cases ho
    · rename_i r _ hr
      simp only [h r hr] at ho
      split at ho <;> cases ho

/-- An index at or past a register's elements is not read. -/
theorem readRegister_of_index {n k : Nat} {s : State}
    (h : ∀ r, regOfNumber n = some r → regElements r ≤ k) :
    ∃ e, readRegister n k s = .refused e := by
  unfold readRegister
  split
  · exact ⟨_, rfl⟩
  · exact ⟨_, rfl⟩
  · rename_i r _ hr
    exact ⟨_, if_neg (not_lt.2 (h r hr))⟩

/-- An element that is there is in a valid space. -/
theorem spaceValid_of_value {s : State} {a : MemAddr} {v : Nat} (h : memValue s a = some v) :
    spaceValid s a = true := by
  cases a <;>
    simp only [memValue, fileElem, gridElem, ch3Elem, rgbElem, Option.map_eq_some_iff,
      Option.bind_eq_some_iff] at h <;>
    obtain ⟨_, ⟨_, hp, _⟩, _⟩ := h <;>
    simp [spaceValid, fileValid, gridValid, ch3Valid, rgbValid, hp]

/-- An element that is there is read as its value. -/
theorem readMemory_of_value {s : State} {a : MemAddr} {v : Nat} (h : memValue s a = some v) :
    readMemory a s = replyWith v s := by
  simp only [readMemory, spaceValid_of_value h, h, if_true]

/-- An element that is not there is not read. -/
theorem readMemory_of_none {s : State} {a : MemAddr} (h : memValue s a = none) :
    ∃ e, readMemory a s = .refused e := by
  simp only [readMemory, h]
  split
  · exact ⟨_, rfl⟩
  · exact ⟨_, rfl⟩

/-- H_LOADFILE replaces FILE and drops BLOCK. -/
theorem loadFile_next {bytes : List Byte} {s t : State} (h : loadFile bytes s = .next t) :
    bytes.length < 2 ^ 32 ∧
      t = { s with file := some (FileImage.ofBytes bytes), block := none, hostReply := none } := by
  unfold loadFile at h
  split at h
  · rename_i hlen
    exact ⟨hlen, by injection h with h; exact h.symm⟩
  · cases h

/-- H_LOADGRID replaces GRID by a grid of the given shape and samples. -/
theorem loadGrid_next {gh gw order : Nat} {samples : List U16} {s t : State}
    (h : loadGrid gh gw order samples s = .next t) :
    ∃ o, orderOfCode order = some o ∧ gh < 2 ^ 16 ∧ gw < 2 ^ 16 ∧ samples.length = gh * gw ∧
      t = { s with
        grid := some ⟨BitVec.ofNat 16 gh, BitVec.ofNat 16 gw, o, samples⟩
        hostReply := none } := by
  unfold loadGrid at h
  split at h
  · rename_i hd
    split at h
    · cases h
    · rename_i o ho
      split at h
      · rename_i hl
        exact ⟨o, ho, hd.1, hd.2, hl, by injection h with h; exact h.symm⟩
      · cases h
  · cases h

/-- H_SETORDER gives the present grid an order. -/
theorem setOrder_next {order : Nat} {s t : State} (h : setOrder order s = .next t) :
    ∃ o g, orderOfCode order = some o ∧ s.grid = some g ∧
      t = { s with grid := some { g with order := o }, hostReply := none } := by
  unfold setOrder at h
  split at h
  · cases h
  · rename_i o ho
    split at h
    · cases h
    · rename_i g hg
      exact ⟨o, g, ho, hg, by injection h with h; exact h.symm⟩

/-- A CMD write that answers is an illegal byte reported, or a command run to its end. -/
theorem runCommand_next {c : Byte} {s t : State} (h : runCommand c s = .next t) :
    (∃ e, decode c = .error e ∧ t = commandReturn (raise .illegalCommand s)) ∨
    (∃ i u, decode c = .ok i ∧ exec i s = .next u ∧ t = commandReturn u) := by
  unfold runCommand at h
  split at h
  · rename_i e he
    exact .inl ⟨e, he, by injection h with h; exact h.symm⟩
  · rename_i i hi
    split at h
    · rename_i u hu
      exact .inr ⟨i, u, hi, hu, by injection h with h; exact h.symm⟩
    · cases h
    · cases h

/-- A register write that answers is a CMD write, a parameter write, or H_SETORDER. -/
theorem writeRegister_next {n value : Nat} {s t : State}
    (h : writeRegister n value s = .next t) :
    (runCommand (BitVec.ofNat 8 value) s = .next t) ∨
    (∃ v, t = { s with variant := some v, hostReply := none }) ∨
    (t = { s with mode := some (BitVec.ofNat 8 value), hostReply := none }) ∨
    (setOrder value s = .next t) := by
  unfold writeRegister at h
  split at h
  · cases h
  · split at h
    · exact .inl h
    · cases h
  · split at h
    · rename_i v _
      exact .inr (.inl ⟨v, by injection h with h; exact h.symm⟩)
    · cases h
  · split at h
    · exact .inr (.inr (.inl (by injection h with h; exact h.symm)))
    · cases h
  · exact .inr (.inr (.inr h))
  · cases h

/-- A number names an order exactly when it is below 4. -/
theorem orderOfCode_eq_none {n : Nat} (h : 4 ≤ n) : orderOfCode n = none := by
  obtain ⟨k, rfl⟩ := Nat.exists_eq_add_of_le h
  unfold orderOfCode
  split <;> first | omega | rfl

/-- An ill-formed transaction is refused. -/
theorem hostTransaction_refused_of_illFormed {t : HostTransaction} (s : State)
    (h : t.wellFormed = false) : ∃ r, hostTransaction t s = .refused r := by
  cases t with
  | loadFile bytes =>
    have hlen : ¬ bytes.length < 2 ^ 32 := by simpa [HostTransaction.wellFormed] using h
    exact ⟨.fileTooLong, by simp only [hostTransaction, loadFile, if_neg hlen]⟩
  | loadGrid gh gw order samples =>
    by_cases hd : gh < 2 ^ 16 ∧ gw < 2 ^ 16
    · by_cases ho : order < 4
      · have hl : samples.length ≠ gh * gw := by
          intro hl
          simp only [HostTransaction.wellFormed, hd.1, hd.2, ho, hl, decide_true, Bool.and_true,
            Bool.true_eq_false] at h
        cases hor : orderOfCode order with
        | none => exact ⟨.orderOutOfRange, by simp only [hostTransaction, loadGrid, if_pos hd, hor]⟩
        | some o =>
          exact ⟨.sampleCountWrong, by
            simp only [hostTransaction, loadGrid, if_pos hd, hor, if_neg hl]⟩
      · exact ⟨.orderOutOfRange, by
          simp only [hostTransaction, loadGrid, if_pos hd, orderOfCode_eq_none (not_lt.1 ho)]⟩
    · exact ⟨.gridTooLarge, by simp only [hostTransaction, loadGrid, if_neg hd]⟩
  | setOrder order =>
    have ho : ¬ order < 4 := by simpa [HostTransaction.wellFormed] using h
    exact ⟨.orderOutOfRange, by
      simp only [hostTransaction, setOrder, orderOfCode_eq_none (not_lt.1 ho)]⟩
  | setParam v m => simp [HostTransaction.wellFormed] at h
  | writeCmd c => simp [HostTransaction.wellFormed] at h
  | writeReg n v => simp [HostTransaction.wellFormed] at h
  | readReg n k => simp [HostTransaction.wellFormed] at h
  | readMem a => simp [HostTransaction.wellFormed] at h
  | reset => simp [HostTransaction.wellFormed] at h

end Sys2Proof.Machine
end

