-- ==== Sys2Proof/Laws/PerInstr.lean ====
section
/-! SUPPORT. Statements made per instruction, one lemma per constructor. -/

namespace Sys2Proof.Laws

/-- A command's byte has the fields R71 asks for: the five high bits 0, and an operation that is
neither all zeros nor all ones (R73). -/
def CmdFormat.Statement (i : Instr) : Prop :=
  i.wellFormed = true ∧ zeroField (encode i) = 0 ∧ opField (encode i) = opOf i ∧
    opOf i ≠ 0b000 ∧ opOf i ≠ 0b111

theorem CmdFormat.locate : CmdFormat.Statement .locate := by unfold CmdFormat.Statement; decide
theorem CmdFormat.parse : CmdFormat.Statement .parse := by unfold CmdFormat.Statement; decide
theorem CmdFormat.unpack : CmdFormat.Statement .unpack := by unfold CmdFormat.Statement; decide
theorem CmdFormat.to3d : CmdFormat.Statement .to3d := by unfold CmdFormat.Statement; decide
theorem CmdFormat.torgb : CmdFormat.Statement .torgb := by unfold CmdFormat.Statement; decide
theorem CmdFormat.decode : CmdFormat.Statement .decode := by unfold CmdFormat.Statement; decide

end Sys2Proof.Laws
end

