-- ==== Sys2Proof/Laws/Safety.lean ====
section
/-! SUPPORT. The invariant taken apart into its clauses. -/

namespace Sys2Proof.Machine

/-- The invariant is the conjunction of what it asks of each product and of the report. -/
theorem State.wf_iff (s : State) :
    s.wf = true ↔
      (∀ f, s.file = some f → f.wf = true) ∧
      (∀ b, s.block = some b → b.wfIn s.file = true) ∧
      (∀ h, s.hdr = some h → h.wf = true) ∧
      (∀ g, s.grid = some g → g.sized = true) ∧
      (∀ x, s.ch3 = some x → x.wf = true) ∧
      (∀ x, s.rgb = some x → x.wf = true) ∧ reportWf s = true := by
  simp only [State.wf, Bool.and_eq_true, Option.all_eq_true]
  tauto

/-- A block of a good state is the trailing slice of the present FILE. -/
theorem Block.wfIn_iff (b : Block) (o : Option FileImage) :
    b.wfIn o = true ↔
      ∃ f, o = some f ∧ b.base.toNat + b.size.toNat = f.len.toNat ∧ 32768 ≤ b.size.toNat := by
  cases o with
  | none => simp [Block.wfIn]
  | some f => simp [Block.wfIn]

theorem RawHeader.wf_iff (h : RawHeader) :
    h.wf = true ↔ h.cfaCode.toNat = (orderCode h.order).toNat := decide_eq_true_iff

/-- What `reportWf` asks of the error report. -/
theorem reportWf_iff (s : State) :
    reportWf s = true ↔
      s.err ∈ listedCodes ∧
      (s.err = 0x41 → s.errVal.toNat % 2 = 1) ∧
      (s.err ≠ 0x41 → s.errDim = 0 ∧ s.errVal = 0) ∧ (s.err = 0 ∨ s.fault = true) := by
  unfold reportWf
  by_cases h : s.err = 0x41
  · simp only [h, if_true, Bool.and_eq_true, Bool.or_eq_true, decide_eq_true_eq, ne_eq,
      not_true_eq_false, false_implies, true_implies]
    tauto
  · simp only [h, if_false, Bool.and_eq_true, Bool.or_eq_true, decide_eq_true_eq, ne_eq,
      not_false_eq_true, false_implies, true_implies]
    tauto

end Sys2Proof.Machine
end

