-- ==== Sys2Proof/Tests/Slice0.lean ====
section
/-! SUPPORT. Tests of the model, their expected values taken from spec/95_test_vectors.md (the
vector's name stands beside each), and for every statement of Certificates/Slice0/Obligations.lean
that has hypotheses a witness that meets them. -/

namespace Sys2Proof.Tests

open Sys2Proof.Machine

/-! ## Helpers -/

/-- An outcome that goes on to a state with `p` goes on. -/
theorem next_of {o : Host.Outcome State Fault Refusal} (p : State → Bool)
    (h : (nextState o).any p = true) : ∃ t, o = .next t ∧ p t = true := by
  cases o with
  | next t => exact ⟨t, rfl, h⟩
  | fault f => cases h
  | refused r => cases h

/-- The test configuration T of spec/95_test_vectors.md. -/
def tableT : Config.BlockSizeTable := fun v m =>
  match v, m.val with
  | .a, 0 => some ⟨33408, by decide⟩
  | .a, 1 => some ⟨34048, by decide⟩
  | .b, 0 => some ⟨32768, by decide⟩
  | _, _ => none

/-- A state with parameters and a file of the given length and bytes that are not zero. -/
def withFile (v : Variant) (m : Byte) (len : U32) (cells : Memory) : State :=
  { State.reset with variant := some v, mode := some m, file := some ⟨len, cells⟩ }

/-- ERR of the state an outcome goes on with. -/
def errOf (o : Host.Outcome State Fault Refusal) : Option Byte := (nextState o).map (·.err)

/-- BLOCK of the state an outcome goes on with. -/
def blockOf (o : Host.Outcome State Fault Refusal) : Option Block := (nextState o).bind (·.block)

/-- HDR of the state an outcome goes on with. -/
def hdrOf (o : Host.Outcome State Fault Refusal) : Option RawHeader := (nextState o).bind (·.hdr)

/-- The samples of GRID of the state an outcome goes on with. -/
def samplesOf (o : Host.Outcome State Fault Refusal) : Option (List U16) :=
  (nextState o).bind fun t => t.grid.map (·.samples)

/-- CH3's elements of the state an outcome goes on with. -/
def ch3Of (o : Host.Outcome State Fault Refusal) : Option (List U16) :=
  (nextState o).bind fun t => t.ch3.map (·.elems)

/-- RGB's stored elements of the state an outcome goes on with. -/
def rgbOf (o : Host.Outcome State Fault Refusal) : Option (List Q16) :=
  (nextState o).bind fun t => t.rgb.map (·.elems)

/-- A header of the given geometry and order, its other fields 0. -/
def geometry (w h pr pd : U16) (order : CfaOrder) : RawHeader where
  name := Vector.replicate 32 0
  width := w
  height := h
  padRight := pr
  padDown := pd
  rsvd := Vector.replicate 24 0
  transform := 0
  format := 0
  cfaCode := (orderCode order).setWidth 8
  bitFormat := 0
  order := order

/-- A state with one grid. -/
def withGrid (h w : U16) (order : CfaOrder) (samples : List U16) : State :=
  { State.reset with grid := some ⟨h, w, order, samples⟩ }

/-- The bytes of file F1 (P1) that are not zero, but those from block offset 208 up to 244. -/
def f1Head : Memory :=
  [(0, 0xFF), (1, 0xD8), (2, 0xFF), (3, 0xE0), (14, 0xFF), (15, 0xD9),
    (16, 0x42), (17, 0x52), (18, 0x43), (19, 0x4D),
    (192, 0x74), (193, 0x65), (194, 0x73), (195, 0x74), (196, 0x63), (197, 0x61), (198, 0x6D)]

/-- The bytes of file F1 (P1) that are not zero, from block offset 245 up. -/
def f1Tail : Memory :=
  [(261, 0x0A),
    (32784, 0x12), (32785, 0x34), (32786, 0x56), (32787, 0x78), (32788, 0x1B),
    (32789, 0xFF), (32791, 0xFF), (32793, 0xE4),
    (32824, 0x01), (32825, 0x02), (32826, 0x03), (32827, 0x04),
    (32829, 0x80), (32830, 0x40), (32831, 0x20), (32832, 0x10), (32833, 0xFF)]

/-- F1 with the given width, height and CFA code bytes, loaded under (A, 0) (P1, P4). -/
def f1State (width height code : Byte) : State :=
  withFile .a 0 33424 (f1Head ++ [(224, width), (226, height), (260, code)] ++ f1Tail)

/-! ## Well-formedness: each check refuses an ill-formed term (V6) -/

theorem test_illFormed_loadFile_tooLong :
    (HostTransaction.loadFile (List.replicate (2 ^ 32) 0)).wellFormed = false := by
  simp only [HostTransaction.wellFormed, List.length_replicate]
  decide

theorem test_illFormed_loadGrid_height :
    (HostTransaction.loadGrid 65536 0 0 []).wellFormed = false := by decide

theorem test_illFormed_loadGrid_width :
    (HostTransaction.loadGrid 0 65536 0 []).wellFormed = false := by decide

theorem test_illFormed_loadGrid_order :
    (HostTransaction.loadGrid 1 1 4 [7]).wellFormed = false := by decide

theorem test_illFormed_loadGrid_count :
    (HostTransaction.loadGrid 1 2 0 [7]).wellFormed = false := by decide

theorem test_illFormed_setOrder : (HostTransaction.setOrder 4).wellFormed = false := by decide

theorem test_illFormed_refused :
    (step { withGrid 1 1 .rggb [7] with script := [.setOrder 4] }) =
      .refused .orderOutOfRange := by rfl

/-! ## Decoding: words written out from R71 and R72 (section 7 of the vectors) -/

theorem test_decode_locate : decode 0b00000001 = .ok .locate := by rfl
theorem test_decode_parse : decode 0b00000010 = .ok .parse := by rfl
theorem test_decode_unpack : decode 0b00000011 = .ok .unpack := by rfl
theorem test_decode_to3d : decode 0b00000100 = .ok .to3d := by rfl
theorem test_decode_torgb : decode 0b00000101 = .ok .torgb := by rfl
theorem test_decode_decode : decode 0b00000110 = .ok .decode := by rfl

theorem test_decode_illegal :
    decode 0b00000000 = .error .opUnassigned ∧ decode 0b00000111 = .error .opUnassigned ∧
      decode 0b00001001 = .error .zeroFieldSet ∧ decode 0b10000001 = .error .zeroFieldSet ∧
      decode 0b11111111 = .error .zeroFieldSet := ⟨rfl, rfl, rfl, rfl, rfl⟩

theorem test_decodeTableWord :
    decodeTableWord 8 0b00000011 = some .unpack ∧ decodeTableWord 8 0b00001011 = none ∧
      decodeTableWord 16 3 = none := by decide

/-- P5, step 1: DECODE as the first command after reset misses its inputs. -/
theorem test_withFetchWord :
    (nextState (step (State.reset.withFetchWord 8 0b00000110))).map status = some 0x80 := by
  decide

/-! ## Fixed functions -/

/-- R1: the pair (name `PCRAW`, source `PCR`). -/
theorem test_identity : (Config.identity.name, Config.identity.source) = ("PCRAW", "PCR") := by rfl

/-- The `pad_to_multiple` row of section 4. -/
theorem test_padToMultiple :
    [padToMultiple 0 32, padToMultiple 1 32, padToMultiple 31 32, padToMultiple 32 32,
        padToMultiple 33 32, padToMultiple 17 16, padToMultiple 131070 32] =
      [0, 32, 32, 32, 64, 32, 131072] := by decide

/-- G15: the comparison of 35 bits does not wrap. -/
theorem test_geometry_G15 :
    geometrySize (geometry 65535 65535 65535 65535 .rggb) = 21474869248 := by decide

/-- U1, U2, U6 and U10. -/
theorem test_groups :
    ([⟨0x12, 0x34, 0x56, 0x78, 0x1B⟩, ⟨0xFF, 0, 0xFF, 0, 0xE4⟩, ⟨0, 0, 0, 0, 0xC0⟩,
        ⟨0xAB, 0xCD, 0xEF, 0x01, 0x6C⟩] : List ByteGroup).map
          (fun g => [g.sample 0, g.sample 1, g.sample 2, g.sample 3]) =
      [[72, 209, 346, 483], [1023, 2, 1021, 0], [3, 0, 0, 0], [685, 822, 959, 4]] := by decide

/-! ## One step of each command -/

/-- L1, and L2: the file is only the block. -/
theorem test_locate_finds :
    blockOf (execLocate (withFile .a 0 7000000
        [(595904, 0x42), (595905, 0x52), (595906, 0x43), (595907, 0x4D)])) =
      some ⟨595904, 6404096⟩ ∧
    blockOf (execLocate (withFile .b 0 10270208
        [(0, 0x42), (1, 0x52), (2, 0x43), (3, 0x4D)])) =
      some ⟨0, 10270208⟩ := by decide

/-- L5, L7, L8, L10, L11 under T, and L3. -/
theorem test_locate_rejects :
    errOf (locateWith tableT (withFile .a 0 33424
        [(16, 0x42), (17, 0x52), (18, 0x43), (19, 0x4C)])) = some 0x20 ∧
    errOf (locateWith tableT (withFile .a 0 33424
        [(0, 0x42), (1, 0x52), (2, 0x43), (3, 0x4D), (12, 0x42), (13, 0x52), (14, 0x43),
          (15, 0x4D)])) = some 0x20 ∧
    errOf (locateWith tableT (withFile .a 2 33424 [])) = some 0x10 ∧
    errOf (locateWith tableT (withFile .a 9 0 [])) = some 0x10 ∧
    errOf (locateWith tableT (withFile .a 0 33407 [])) = some 0x21 ∧
    errOf (execLocate (withFile .b 0 10270207 [])) = some 0x21 := by decide

/-- H1 with the geometry bytes of H2 and H4. -/
theorem test_parse_latches :
    (hdrOf (execParse { withFile .a 0 33408
        [(176, 0x74), (182, 0x6D), (208, 0x20), (209, 0x0A), (210, 0x98), (211, 0x07),
          (212, 0xFF), (213, 0xFF), (214, 0x01), (240, 0x03), (242, 0x21), (244, 0x02),
          (245, 0x0A)] with block := some ⟨0, 33408⟩ })).map
      (fun h => ([h.name[0], h.name[6], h.name[7], h.cfaCode, h.bitFormat],
        [h.width, h.height, h.padRight, h.padDown, h.transform, h.format], h.order)) =
      some ([0x74, 0x6D, 0x00, 2, 10], [2592, 1944, 65535, 1, 3, 33], .bggr) := by decide

/-- H7: CFA code 4; no header register holds a value. -/
theorem test_parse_rejects :
    (nextState (execParse { withFile .a 0 33408 [(244, 0x04)] with
        block := some ⟨0, 33408⟩, hdr := some (geometry 8 2 0 0 .rggb) })).map
      (fun t => (t.err, t.hdr, t.fault)) = some (0x30, none, true) := by decide

/-- The grid of P1, after LOCATE and PARSE. -/
theorem test_unpack_P1 :
    samplesOf (execUnpack { f1State 8 2 2 with
        block := some ⟨16, 33408⟩, hdr := some (geometry 8 2 0 0 .bggr) }) =
      some [72, 209, 346, 483, 1023, 2, 1021, 0, 4, 8, 12, 16, 515, 259, 131, 67] := by decide

/-- G6, G7, G8 and G11: the size check precedes the row-width check. -/
theorem test_unpack_rejects :
    ([(33408, geometry 6 2 0 0 .rggb), (34048, geometry 8 2 0 0 .rggb),
        (33408, geometry 8 2 32 0 .rggb), (34048, geometry 6 2 0 0 .rggb)]
        : List (U32 × RawHeader)).map
      (fun p => errOf (execUnpack { withFile .a 0 40000 [] with
        block := some ⟨0, p.1⟩, hdr := some p.2 })) =
      [some 0x40, some 0x42, some 0x42, some 0x42] := by decide

/-- M1 to M4. -/
theorem test_to3d_orders :
    [CfaOrder.rggb, .gbrg, .bggr, .grbg].map
      (fun o => ch3Of (execTo3d (withGrid 2 2 o [1, 2, 3, 4]))) =
      [some [1, 0, 0, 0, 2, 0, 0, 3, 0, 0, 0, 4], some [0, 1, 0, 0, 0, 2, 3, 0, 0, 0, 4, 0],
        some [0, 0, 1, 0, 2, 0, 0, 3, 0, 4, 0, 0],
        some [0, 1, 0, 2, 0, 0, 0, 0, 3, 0, 4, 0]] := by decide

/-- M14: odd dimensions. -/
theorem test_to3d_M14 :
    ch3Of (execTo3d (withGrid 3 3 .grbg [1, 2, 3, 4, 5, 6, 7, 8, 9])) =
      some [0, 1, 0, 2, 0, 0, 0, 3, 0, 0, 0, 4, 0, 5, 0, 0, 0, 6, 0, 7, 0, 8, 0, 0, 0, 9, 0] := by
  decide

/-- M5 to M8, M10 and M22 (stored numbers). -/
theorem test_torgb_orders :
    [CfaOrder.rggb, .gbrg, .bggr, .grbg].map
      (fun o => rgbOf (execTorgb (withGrid 2 2 o [1, 2, 3, 5]))) =
      [some [2, 5, 10], some [6, 6, 4], some [10, 5, 2], some [4, 6, 6]] ∧
    rgbOf (execTorgb (withGrid 4 4 .gbrg
      [10, 20, 30, 40, 50, 60, 70, 80, 90, 100, 110, 120, 130, 140, 150, 161])) =
      some [100, 70, 40, 140, 110, 80, 260, 230, 200, 300, 271, 240] ∧
    rgbOf (execTorgb (withGrid 2 2 .gbrg [65535, 0, 0, 65535])) = some [0, 131070, 0] := by
  decide

/-- M15 to M19: (ERR, ERR_DIM, ERR_VAL) for shapes (3,2), (2,3), (3,3), (1,0) and (0,3). -/
theorem test_torgb_uneven :
    ([(3, 2), (2, 3), (3, 3), (1, 0), (0, 3)] : List (U16 × U16)).map
      (fun p => (nextState (execTorgb (withGrid p.1 p.2 .rggb []))).map
        fun t => (t.err, t.errDim, t.errVal)) =
      [some (0x41, 1, 3), some (0x41, 0, 3), some (0x41, 0, 3), some (0x41, 1, 1),
        some (0x41, 0, 3)] := by decide

/-- P1, step 3, under T. -/
theorem test_decode_P1 :
    (nextState (decodeWith tableT (f1State 8 2 2))).map
      (fun t => (status t, t.err, t.block, t.grid)) =
      some (0x0F, 0x00, some ⟨16, 33408⟩, some ⟨2, 8, .bggr,
        [72, 209, 346, 483, 1023, 2, 1021, 0, 4, 8, 12, 16, 515, 259, 131, 67]⟩) := by decide

/-- P4, steps 2 and 4, under T. -/
theorem test_decode_P4 :
    ([f1State 8 2 7, f1State 6 2 2].map fun s =>
      (nextState (decodeWith tableT s)).map fun t => (status t, t.err)) =
      [some (0x83, 0x30), some (0x87, 0x40)] := by decide

/-! ## Witnesses: states and operands that meet the hypotheses of the statements

A file that fits the documented entry (B, 0): 16 bytes before the block, width 4, height 1,
right padding 42652 and down padding 191, so that `wp = 42656`, `brw = 53320`, `hp = 192` and
`32768 + 192 * 53320 = 10270208`; BGGR, and the first group of vector U1. -/

/-- The witness file's bytes that are not zero, its CFA code byte given. -/
def blockCells (code : Byte) : Memory :=
  [(16, 0x42), (17, 0x52), (18, 0x43), (19, 0x4D),
    (224, 0x04), (226, 0x01), (228, 0x9C), (229, 0xA6), (230, 0xBF), (260, code), (261, 0x0A),
    (32784, 0x12), (32785, 0x34), (32786, 0x56), (32787, 0x78), (32788, 0x1B)]

/-- The witness file. -/
def blockFile : FileImage := ⟨10270224, blockCells 2⟩

/-- The witness file with another byte before its block and another in a row's padding. -/
def paddedFile : FileImage :=
  ⟨10270224, (0, 0xFF) :: blockCells 2 ++ [(32789, 0xFF)]⟩

/-- The witness file's header. -/
def blockHeader : RawHeader := { geometry 4 1 42652 191 .bggr with bitFormat := 10 }

/-- Parameters and the witness file. -/
def loaded : State := { State.reset with
  variant := some .b
  mode := some 0
  file := some blockFile }

/-- The same with the block located. -/
def located : State := { loaded with block := some ⟨16, 10270208⟩ }

/-- The same with the header parsed. -/
def parsed : State := { located with hdr := some blockHeader }

/-- The grid of S2. -/
def tile : Grid := ⟨2, 2, .rggb, [1, 2, 3, 5]⟩

/-- Only the grid of S2. -/
def mapped : State := { State.reset with grid := some tile }

/-- The state `s` with the host about to perform `t`. -/
def about (t : HostTransaction) (s : State) : State := { s with script := [t] }

theorem witness_DecodeAndEncodeAgree :
    Instr.torgb.wellFormed = true ∧ decode 0x01 = .ok .locate ∧ decode 0x06 = .ok .decode :=
  ⟨rfl, rfl, rfl⟩

theorem witness_IllegalBytesOnlyReport :
    (1 ≤ (1 : Byte).toNat ∧ (1 : Byte).toNat ≤ 6) ∧ (1 ≤ (6 : Byte).toNat ∧ (6 : Byte).toNat ≤ 6) ∧
      (about (.writeCmd 0) mapped).script = .writeCmd 0 :: [] ∧ (0 : Byte).toNat = 0 ∧
      (about (.writeCmd 7) mapped).script = .writeCmd 7 :: [] ∧ 7 ≤ (7 : Byte).toNat ∧
      7 ≤ (255 : Byte).toNat := by decide

theorem witness_StepRunsTheDecodedCommand :
    (about (.writeCmd 0x04) mapped).script = .writeCmd 0x04 :: [] ∧
      decode 0x04 = .ok .to3d := ⟨rfl, rfl⟩

theorem witness_RegisterZeroIsTheCommandPort : 0 < 256 ∧ 255 < 256 := by decide

theorem witness_IdleStepChangesNothing : mapped.script = [] := rfl

theorem witness_ResetClearsEverything : (about .reset parsed).script = .reset :: [] := rfl

theorem witness_BlockSizeTableAsDocumented :
    8 ≤ (8 : Byte).toNat ∧ 8 ≤ (255 : Byte).toNat := by decide

/-- A block that is a file's end, and (L2) one that is the whole file. -/
theorem witness_LocateFindsTheTrailingBlock :
    (loaded.file = some blockFile ∧ loaded.variant = some .b ∧ loaded.mode = some 0 ∧
      blockSize blockSizeTable .b 0 = some 10270208 ∧ 10270208 ≤ blockFile.len.toNat ∧
      blockFile.byte 16 = 0x42 ∧ blockFile.byte 17 = 0x52 ∧ blockFile.byte 18 = 0x43 ∧
      blockFile.byte 19 = 0x4D) ∧
    ((10270208 : U32).toNat ≤ (10270208 : U32).toNat ∧
      (FileImage.mk 10270208 [(0, 0x42), (1, 0x52), (2, 0x43), (3, 0x4D)]).byte 3 = 0x4D) := by
  decide

/-- Modes 8 and 255 have no entry; a file one byte short; a marker whose last byte differs. -/
theorem witness_LocateReportsEachFailure :
    (withFile .b 0 10270207 []).file = some ⟨10270207, []⟩ ∧
      (withFile .b 0 10270207 []).variant = some .b ∧ (withFile .b 0 10270207 []).mode = some 0 ∧
      blockSize blockSizeTable .a 8 = none ∧ blockSize blockSizeTable .b 255 = none ∧
      blockSize blockSizeTable .b 0 = some 10270208 ∧
      (10270207 : U32).toNat < (10270208 : U32).toNat ∧
      (10270208 : U32).toNat ≤ (10270208 : U32).toNat ∧
      (FileImage.mk 10270208 [(0, 0x42), (1, 0x52), (2, 0x43), (3, 0x4C)]).byte 3 ≠ 0x4D := by
  decide

/-- Two files that agree on the marker and differ before and inside the block. -/
theorem witness_LocateReadsOnlyTheMarker :
    loaded.file = some blockFile ∧ paddedFile.len = blockFile.len ∧ paddedFile ≠ blockFile ∧
      ∀ (v : Variant) (m : Byte) (size : U32) (k : Nat), loaded.variant = some v →
        loaded.mode = some m → blockSize blockSizeTable v m = some size → k < 4 →
        paddedFile.byte (blockFile.len.toNat - size.toNat + k) =
          blockFile.byte (blockFile.len.toNat - size.toNat + k) := by
  refine ⟨rfl, rfl, by decide, ?_⟩
  rintro v m size k ⟨⟩ ⟨⟩ ⟨⟩ hk
  revert k
  decide

/-- A file that ends with the header's last byte, with code 3 and with code 0. -/
theorem witness_ParseLatchesEveryField :
    (16 + 246 ≤ (FileImage.mk 262 [(260, 3)]).len.toNat ∧
      ((FileImage.mk 262 [(260, 3)]).byte (16 + 244)).toNat ≤ 3) ∧
    (16 + 246 ≤ (FileImage.mk 262 []).len.toNat ∧
      ((FileImage.mk 262 []).byte (16 + 244)).toNat ≤ 3) ∧
    located.block = some ⟨16, 10270208⟩ ∧ located.file = some blockFile ∧
      16 + 246 ≤ blockFile.len.toNat ∧ (blockFile.byte (16 + 244)).toNat ≤ 3 := by decide

/-- Codes 4 and 255. -/
theorem witness_ParseRejectsBadCfaCode :
    (∃ s : State, s.block = some ⟨16, 10270208⟩ ∧ s.file = some ⟨10270224, blockCells 4⟩) ∧
      16 + 246 ≤ (10270224 : U32).toNat ∧
      4 ≤ ((FileImage.mk 10270224 (blockCells 4)).byte (16 + 244)).toNat ∧
      4 ≤ ((FileImage.mk 10270224 (blockCells 255)).byte (16 + 244)).toNat :=
  ⟨⟨{ located with file := some ⟨10270224, blockCells 4⟩ }, rfl, rfl⟩, by decide, by decide,
    by decide⟩

theorem witness_PadToMultipleIsLeast : 1 ≤ 1 ∧ 1 ∣ 7 ∧ 7 ≤ 7 ∧ 1 ≤ 32 ∧ 32 ∣ 64 ∧ 33 ≤ 64 := by
  decide

/-- The samples of the vector U1, and the bounds 1023 and 0. -/
theorem witness_PackingRoundTrips :
    (483 : U16).toNat ≤ 1023 ∧ (1023 : U16).toNat ≤ 1023 ∧ (0 : U16).toNat ≤ 1023 := by decide

/-- One row of one group, the block ending with the file; and (G5) the empty grid. -/
theorem witness_UnpackExpandsEveryGroup :
    (parsed.block = some ⟨16, 10270208⟩ ∧ parsed.hdr = some blockHeader ∧
      parsed.file = some blockFile ∧ 16 + 10270208 ≤ blockFile.len.toNat ∧
      53320 = (((blockHeader.width.toNat + blockHeader.padRight.toNat + 31) / 32 * 32) * 5 + 3) / 4 ∧
      10270208 = 32768 +
        (blockHeader.height.toNat + blockHeader.padDown.toNat + 15) / 16 * 16 * 53320 ∧
      blockHeader.width.toNat % 4 = 0 ∧ 0 < blockHeader.height.toNat ∧
      3 < blockHeader.width.toNat) ∧
    (0 = (((0 + 0 + 31) / 32 * 32) * 5 + 3) / 4 ∧ 32768 = 32768 + (0 + 0 + 15) / 16 * 16 * 0 ∧
      (geometry 0 0 0 0 .rggb).width.toNat % 4 = 0) := by decide

/-- A height of one row group more than the block holds. -/
theorem witness_UnpackRejectsSizeMismatch :
    { parsed with hdr := some (geometry 4 2 42652 191 .bggr) }.block = some ⟨16, 10270208⟩ ∧
      { parsed with hdr := some (geometry 4 2 42652 191 .bggr) }.hdr =
        some (geometry 4 2 42652 191 .bggr) ∧
      (10270208 : U32).toNat ≠ 32768 +
        ((geometry 4 2 42652 191 .bggr).height.toNat +
          (geometry 4 2 42652 191 .bggr).padDown.toNat + 15) / 16 * 16 *
        ((((geometry 4 2 42652 191 .bggr).width.toNat +
          (geometry 4 2 42652 191 .bggr).padRight.toNat + 31) / 32 * 32 * 5 + 3) / 4) := by
  decide

/-- Widths 6 and 7 in the same padded row: the geometry asks for the documented size. -/
theorem witness_UnpackRejectsPartialGroups :
    ({ parsed with hdr := some (geometry 6 1 42640 191 .bggr) }.block = some ⟨16, 10270208⟩ ∧
      { parsed with hdr := some (geometry 6 1 42640 191 .bggr) }.hdr =
        some (geometry 6 1 42640 191 .bggr) ∧
      (10270208 : U32).toNat = 32768 + (1 + 191 + 15) / 16 * 16 *
        (((6 + 42640 + 31) / 32 * 32 * 5 + 3) / 4) ∧
      (geometry 6 1 42640 191 .bggr).width.toNat % 4 ≠ 0) ∧
    (10270208 : U32).toNat = 32768 + (1 + 191 + 15) / 16 * 16 *
        (((7 + 42640 + 31) / 32 * 32 * 5 + 3) / 4) ∧
      (geometry 7 1 42640 191 .bggr).width.toNat % 4 ≠ 0 := by decide

theorem witness_VariantAModeZeroNeverUnpacks :
    blockSize blockSizeTable .a 0 = some (Block.mk 595904 6404096).size ∧
      ∃ s : State, s.block = some ⟨595904, 6404096⟩ ∧ s.hdr = some blockHeader :=
  ⟨rfl, { parsed with block := some ⟨595904, 6404096⟩ }, rfl, rfl⟩

/-- UNPACK succeeds on the parsed block, and a file can be loaded after it. -/
theorem witness_UnpackedGridInvariants :
    (∃ t, exec .unpack parsed = .next t ∧ decide (t.err = 0x00) = true) ∧
      ∃ u, hostTransaction (.loadFile [1, 2]) parsed = .next u ∧ true = true :=
  ⟨next_of _ (by decide), next_of (fun _ => true) (by decide)⟩

/-- Two files that agree on the active bytes and differ in the row's padding. -/
theorem witness_UnpackIgnoresInactiveBytes :
    parsed.block = some ⟨16, 10270208⟩ ∧ parsed.hdr = some blockHeader ∧
      parsed.file = some blockFile ∧ paddedFile.len = blockFile.len ∧ paddedFile ≠ blockFile ∧
      ∀ r j : Nat, r < blockHeader.height.toNat → j < cropBytes blockHeader →
        blockByte paddedFile ⟨16, 10270208⟩ (32768 + r * byteRowWidth blockHeader + j) =
          blockByte blockFile ⟨16, 10270208⟩ (32768 + r * byteRowWidth blockHeader + j) := by
  refine ⟨rfl, rfl, rfl, rfl, by decide, ?_⟩
  have h : ∀ r < 1, ∀ j < 5,
      blockByte paddedFile ⟨16, 10270208⟩ (32768 + r * byteRowWidth blockHeader + j) =
        blockByte blockFile ⟨16, 10270208⟩ (32768 + r * byteRowWidth blockHeader + j) := by decide
  exact fun r j hr hj => h r hr j hj

/-- The tile of S2, the grid of M13, and the empty grid of M20. -/
theorem witness_To3dPutsEachSampleInItsChannel :
    mapped.grid = some tile ∧ tile.samples.length = tile.h.toNat * tile.w.toNat ∧
      (Grid.mk 1 1 .bggr [7]).samples.length = 1 * 1 ∧
      (Grid.mk 0 0 .bggr []).samples.length = 0 * 0 ∧ 0 < tile.h.toNat ∧ 1 < tile.w.toNat ∧
      2 < 3 ∧ tile.samples[0 * tile.w.toNat + 1]? = some 2 := by decide

theorem witness_To3dLeavesOneChannelPerPixel :
    ∃ t, exec .to3d mapped = .next t ∧
      (decide (t.err = 0x00) && decide (ch3Elem t 1 1 0 = some 0) &&
        decide (ch3Elem t 1 1 2 = some 5) && decide (0 ≠ 2)) = true :=
  next_of _ (by decide)

theorem witness_TorgbCollapsesEachTile :
    mapped.grid = some tile ∧ tile.samples.length = tile.h.toNat * tile.w.toNat ∧
      tile.w.toNat % 2 = 0 ∧ tile.h.toNat % 2 = 0 ∧ 0 < tile.h.toNat / 2 ∧
      0 < tile.w.toNat / 2 ∧ (Grid.mk 0 0 .rggb []).samples.length = 0 * 0 := by decide

/-- M15, M16 and M17, and the greatest odd width. -/
theorem witness_TorgbNamesTheOddDimension :
    ((withGrid 3 2 .rggb []).grid = some ⟨3, 2, .rggb, []⟩ ∧ (2 : U16).toNat % 2 = 0 ∧
      (3 : U16).toNat % 2 = 1) ∧
    ((withGrid 2 3 .rggb []).grid = some ⟨2, 3, .rggb, []⟩ ∧ (3 : U16).toNat % 2 = 1) ∧
    (65535 : U16).toNat % 2 = 1 := by decide

theorem witness_RgbAgreesWithChannelImage :
    mapped.grid = some tile ∧
      (∃ a, exec .to3d mapped = .next a ∧ decide (a.err = 0x00) = true) ∧
      (∃ b, exec .torgb mapped = .next b ∧ decide (b.err = 0x00) = true) ∧
      0 < tile.h.toNat / 2 ∧ 0 < tile.w.toNat / 2 :=
  ⟨rfl, next_of _ (by decide), next_of _ (by decide), by decide, by decide⟩

theorem witness_MapperOrderDoesNotMatter :
    ∃ a b c d, exec .to3d mapped = .next a ∧ exec .torgb a = .next b ∧
      exec .torgb mapped = .next c ∧ exec .to3d c = .next d :=
  ⟨_, _, _, _, rfl, rfl, rfl, rfl⟩

theorem witness_DecodeDeliversTheGrid :
    loaded.file = some blockFile ∧ loaded.variant = some .b ∧ loaded.mode = some 0 ∧
      blockSize blockSizeTable .b 0 = some 10270208 ∧
      16 + (10270208 : U32).toNat = blockFile.len.toNat ∧
      blockFile.byte 16 = 0x42 ∧ blockFile.byte (16 + 1) = 0x52 ∧
      blockFile.byte (16 + 2) = 0x43 ∧ blockFile.byte (16 + 3) = 0x4D ∧
      4 = (blockFile.byte (16 + 208)).toNat + 256 * (blockFile.byte (16 + 209)).toNat ∧
      1 = (blockFile.byte (16 + 210)).toNat + 256 * (blockFile.byte (16 + 211)).toNat ∧
      42652 = (blockFile.byte (16 + 212)).toNat + 256 * (blockFile.byte (16 + 213)).toNat ∧
      191 = (blockFile.byte (16 + 214)).toNat + 256 * (blockFile.byte (16 + 215)).toNat ∧
      (blockFile.byte (16 + 244)).toNat ≤ 3 ∧
      53320 = (((4 + 42652 + 31) / 32 * 32) * 5 + 3) / 4 ∧
      (10270208 : U32).toNat = 32768 + (1 + 191 + 15) / 16 * 16 * 53320 ∧ 4 % 4 = 0 := by
  decide

/-- A DECODE that ends in each of its stages: (ERR, STATUS) of sequence check, mode, length, marker,
CFA code, size, row width, success. -/
theorem witness_DecodeFailureTable :
    ([State.reset, { loaded with mode := some 8 }, withFile .b 0 10270207 [],
        withFile .b 0 10270208 [],
        withFile .b 0 10270224 (blockCells 4),
        withFile .b 0 10270208 [(0, 0x42), (1, 0x52), (2, 0x43), (3, 0x4D)],
        withFile .b 0 10270208 [(0, 0x42), (1, 0x52), (2, 0x43), (3, 0x4D), (208, 0x06),
          (210, 0x01), (212, 0x90), (213, 0xA6), (214, 0xBF)],
        loaded].map fun s => (nextState (exec .decode s)).map fun t => (t.err, status t)) =
      [some (0xE0, 0x80), some (0x10, 0x81), some (0x21, 0x81), some (0x20, 0x81),
        some (0x30, 0x83), some (0x42, 0x87), some (0x40, 0x87), some (0x00, 0x0F)] := by decide

/-- The witness file and one with another byte before the block. -/
theorem witness_DecodeIgnoresUnreadBytes :
    loaded.file = some blockFile ∧
      ∃ f' : FileImage, f' ≠ blockFile ∧ f'.len = blockFile.len ∧
        ∀ (v : Variant) (m : Byte) (size : U32) (k : Nat), loaded.variant = some v →
          loaded.mode = some m → blockSize blockSizeTable v m = some size →
          readOfBlock (headerFields (blockByte blockFile ⟨blockFile.len - size, size⟩) .rggb) k →
            blockByte f' ⟨blockFile.len - size, size⟩ k =
              blockByte blockFile ⟨blockFile.len - size, size⟩ k := by
  refine ⟨rfl, ⟨10270224, (0, 0xFF) :: blockCells 2⟩, by decide, rfl, ?_⟩
  rintro v m size k ⟨⟩ ⟨⟩ ⟨⟩ -
  have h : ¬ (BitVec.toNat (blockFile.len - 10270208#32) + k = 0) := by
    have : BitVec.toNat (blockFile.len - 10270208#32) = 16 := by decide
    omega
  exact if_neg h

theorem witness_MissingInputsRaiseSequenceError :
    State.reset.file = none ∧ State.reset.block = none ∧ located.hdr = none ∧
      State.reset.grid = none ∧ (∀ i, decode 0 ≠ .ok i) ∧ ∀ i, decode 7 ≠ .ok i := by
  refine ⟨rfl, rfl, rfl, rfl, ?_, ?_⟩ <;> intro i <;> cases i <;> decide

theorem witness_SequenceErrorChangesNothingElse :
    ∃ t, exec .unpack located = .next t ∧ decide (t.err = 0xE0) = true := next_of _ (by decide)

/-- A failure after execution started, of each command that can have one. -/
theorem witness_FailedCommandLeavesNoProduct :
    (∃ t, exec .locate { loaded with mode := some 8 } = .next t ∧
      (decide (t.err ≠ 0x00) && decide (t.err ≠ 0xE0)) = true) ∧
    (∃ t, exec .parse { located with file := some ⟨10270224, blockCells 4⟩ } = .next t ∧
      (decide (t.err ≠ 0x00) && decide (t.err ≠ 0xE0)) = true) ∧
    (∃ t, exec .unpack { parsed with hdr := some (geometry 4 2 0 0 .rggb) } = .next t ∧
      (decide (t.err ≠ 0x00) && decide (t.err ≠ 0xE0)) = true) ∧
    ∃ t, exec .torgb (withGrid 1 1 .rggb [7]) = .next t ∧
      (decide (t.err ≠ 0x00) && decide (t.err ≠ 0xE0)) = true :=
  ⟨next_of _ (by decide), next_of _ (by decide), next_of _ (by decide), next_of _ (by decide)⟩

/-- TORGB with code 0x41, and TORGB with code 0x00. -/
theorem witness_CommandsReportListedResults :
    (∃ t, exec .torgb (withGrid 1 1 .rggb [7]) = .next t ∧ decide (t.err = 0x41) = true) ∧
      ∃ t, exec .torgb mapped = .next t ∧ decide (t.err = 0x00) = true :=
  ⟨next_of _ (by decide), next_of _ (by decide)⟩

theorem witness_CauseCodesAndKinds :
    causeCode (.unevenDimension .width 1) = causeCode (.unevenDimension .height 3) ∧
      causeCode .blockMissing = causeCode .blockMissing := by decide

theorem witness_CommandsWriteOnlyTheirProducts :
    (∃ t, exec .parse located = .next t ∧ t.hdr.isSome = true) ∧
      ∃ t, exec .to3d mapped = .next t ∧ t.ch3.isSome = true :=
  ⟨next_of _ (by decide), next_of _ (by decide)⟩

/-- A step that writes three products. -/
theorem witness_StepKeepsTheInvariant :
    (about (.writeCmd 0x06) loaded).wf = true ∧
      ∃ t, step (about (.writeCmd 0x06) loaded) = .next t ∧ t.grid.isSome = true :=
  ⟨by decide, next_of _ (by decide)⟩

theorem witness_StepNeverLeavesTheMemories : (about (.writeCmd 0x03) parsed).wf = true := by
  decide

theorem witness_EveryCommandEnds : parsed.wf = true ∧ mapped.wf = true := by decide

theorem witness_OnlyResetClearsFault :
    (∃ t, hostTransaction (.writeCmd 0x07) mapped = .next t ∧ decide (t.err ≠ 0x00) = true) ∧
    (∃ t, hostTransaction (.writeCmd 0x06) mapped = .next t ∧ decide (t.err ≠ 0x00) = true) ∧
    ∃ t, step { State.reset with fault := true, script := [.reset] } = .next t ∧
      (!t.fault) = true :=
  ⟨next_of _ (by decide), next_of _ (by decide), next_of _ (by decide)⟩

theorem witness_CleanEndMeansCleanRun :
    HostTransaction.reset ∉ (about (.writeCmd 0x04) mapped).script ∧
      ∃ t, runSteps 1 (about (.writeCmd 0x04) mapped) = some t ∧ goneWrong t = false :=
  ⟨by decide, _, rfl, rfl⟩

/-- A short file, the empty file, and a list of 2^32 bytes. -/
theorem witness_LoadFileStoresEveryByte :
    ((about (.loadFile [1, 0, 2]) parsed).script = .loadFile [1, 0, 2] :: [] ∧
      [(1 : Byte), 0, 2].length < 2 ^ 32 ∧ ([1, 0, 2] : List Byte)[1]? = some 0 ∧
      ([] : List Byte).length < 2 ^ 32) ∧
    ∃ bytes : List Byte, (about (.loadFile bytes) parsed).script = .loadFile bytes :: [] ∧
      2 ^ 32 ≤ bytes.length :=
  ⟨by decide, List.replicate (2 ^ 32) 0, rfl, by rw [List.length_replicate]⟩

/-- The greatest height with no column, a list that is too short, and the least operands past each
bound. -/
theorem witness_LoadGridStoresEverySample :
    (about (.loadGrid 65535 0 3 []) mapped).script = .loadGrid 65535 0 3 [] :: [] ∧
      65535 ≤ 65535 ∧ 3 ≤ 3 ∧ ([] : List U16).length = 65535 * 0 ∧
      (about (.loadGrid 1 1 0 []) mapped).script = .loadGrid 1 1 0 [] :: [] ∧
      ([] : List U16).length ≠ 1 * 1 ∧ ([7] : List U16).length = 1 * 1 ∧
      (about (.loadGrid 65536 0 0 []) mapped).script = .loadGrid 65536 0 0 [] :: [] ∧
      (about (.loadGrid 0 65536 0 []) mapped).script = .loadGrid 0 65536 0 [] :: [] ∧
      65536 ≤ 65536 ∧ (about (.loadGrid 0 0 4 []) mapped).script = .loadGrid 0 0 4 [] :: [] ∧
      4 ≤ 4 := by decide

theorem witness_SetOrderRewritesOnlyTheOrder :
    ((about (.setOrder 3) mapped).script = .setOrder 3 :: [] ∧
      (about (.setOrder 3) mapped).grid = some tile ∧ 3 ≤ 3) ∧
    (about (.setOrder 0) State.reset).grid = none ∧ 4 ≤ 4 := by decide

/-- The grid of S2 with both its images: first and last elements, addresses just outside, and spaces
without a value. -/
theorem witness_ReadsAnswerOrAreRefused :
    (located.file = some blockFile ∧ 10270223 < blockFile.len.toNat ∧
      blockFile.len.toNat ≤ 10270224) ∧
    (mapped.grid = some tile ∧ 1 < tile.h.toNat ∧ 1 < tile.w.toNat ∧
      tile.samples[1 * tile.w.toNat + 1]? = some 5 ∧ tile.h.toNat ≤ 2 ∧ tile.w.toNat ≤ 2) ∧
    ({ mapped with ch3 := some (to3dImage tile) }.ch3 = some (to3dImage tile) ∧
      (to3dImage tile).elems[(1 * (to3dImage tile).w.toNat + 1) * 3 + 2]? = some 5 ∧
      (to3dImage tile).h.toNat ≤ 2 ∧ 3 ≤ 3) ∧
    ({ mapped with rgb := some (toRgbImage tile) }.rgb = some (toRgbImage tile) ∧
      (toRgbImage tile).elems[(0 * (toRgbImage tile).w.toNat + 0) * 3 + 2]? = some 10 ∧
      (toRgbImage tile).w.toNat ≤ 1) ∧
    (mapped.file = none ∧ located.grid = none ∧ mapped.ch3 = none ∧ mapped.rgb = none) ∧
    (∃ t, hostTransaction (.readMem (.grid 1 1)) mapped = .next t ∧
      decide (t.hostReply = some (.value 5)) = true) ∧
    ∃ t, hostTransaction (.readReg 0x40 0) mapped = .next t ∧
      decide (t.hostReply = some (.value 2)) = true :=
  ⟨by decide, by decide, by decide, by decide, by decide, next_of _ (by decide),
    next_of _ (by decide)⟩

/-- Each premise in a state where no other product is present, but the header, which stands on its
block. -/
theorem witness_RegistersReadByNumber :
    loaded.variant = some .b ∧ loaded.mode = some 0 ∧ loaded.file = some blockFile ∧
      located.block = some ⟨16, 10270208⟩ ∧ parsed.hdr = some blockHeader ∧
      parsed.ch3 = none ∧ mapped.grid = some tile ∧ mapped.hdr = none ∧
      { State.reset with ch3 := some (to3dImage tile) }.ch3 = some (to3dImage tile) ∧
      { State.reset with rgb := some (toRgbImage tile) }.rgb = some (toRgbImage tile) := by decide

/-- Numbers at the ends of the reserved ranges and one past 255, states that lack each product beside
ones they hold, and indices at each bound. -/
theorem witness_ReadsOfNoValueAreRefused :
    (5 ∉ listedNumbers ∧ 7 ∉ listedNumbers ∧ 0x0B ∉ listedNumbers ∧ 0x2B ∉ listedNumbers ∧
      255 ∉ listedNumbers ∧ 256 ∉ listedNumbers) ∧
    (mapped.variant = none ∧ mapped.mode = none ∧ mapped.file = none ∧ loaded.block = none ∧
      located.hdr = none ∧ parsed.grid = none ∧ mapped.ch3 = none ∧ mapped.rgb = none) ∧
    0x2A ∈ headerNumbers ∧ 0x21 ∉ [0x20, 0x25] ∧ 32 ≤ 32 ∧ 24 ≤ 24 ∧ 5 ≤ 256 := by decide

/-- A write to each kind of number, and the least value too wide for each register. -/
theorem witness_OtherRegisterWritesAreRefused :
    (5 ∉ listedNumbers ∧ 256 ∉ listedNumbers) ∧
    (0x01 ∈ listedNumbers ∧ 0x01 ∉ [0x00, 0x08, 0x09, 0x42] ∧ 0x61 ∈ listedNumbers ∧
      0x61 ∉ [0x00, 0x08, 0x09, 0x42]) ∧
    (0x00 ∈ [0x00, 0x09] ∧ 0x09 ∈ [0x00, 0x09] ∧ 256 ≤ 256) ∧ 2 ≤ 2 := by decide

/-- A failure after execution started of LOCATE, PARSE, UNPACK and TORGB, and of each stage of
DECODE, every one in a state that holds the product the command clears. -/
theorem witness_FailedProductsCannotBeRead :
    ((∃ t, exec .locate { parsed with mode := some 8 } = .next t ∧
        decide (t.err = 0x10) = true) ∧
      (∃ t, exec .parse { parsed with file := some ⟨10270224, blockCells 4⟩ } = .next t ∧
        decide (t.err = 0x30) = true) ∧
      (∃ t, exec .unpack { parsed with
          hdr := some (geometry 4 2 0 0 .rggb), grid := some tile } = .next t ∧
        decide (t.err = 0x42) = true) ∧
      ∃ t, exec .torgb { withGrid 1 1 .rggb [7] with rgb := some (toRgbImage tile) } = .next t ∧
        decide (t.err = 0x41) = true) ∧
    (∃ t, exec .decode { parsed with mode := some 8 } = .next t ∧
      decide (t.err = 0x10) = true) ∧
    (∃ t, exec .decode { parsed with file := some ⟨10270224, blockCells 4⟩ } = .next t ∧
      decide (t.err = 0x30) = true) ∧
    ∃ t, exec .decode { withFile .b 0 10270208
        [(0, 0x42), (1, 0x52), (2, 0x43), (3, 0x4D)] with grid := some tile } = .next t ∧
      decide (t.err = 0x42) = true :=
  ⟨⟨next_of _ (by decide), next_of _ (by decide), next_of _ (by decide), next_of _ (by decide)⟩,
    next_of _ (by decide), next_of _ (by decide), next_of _ (by decide)⟩

/-- A new file, a LOCATE that succeeds, and the steps that end a state without a block and one
without a header, the former by a write to register number 0x00 too. -/
theorem witness_StaleProductsAreOutOfSequence :
    (∃ t, hostTransaction (.loadFile [1]) parsed = .next t ∧ t.hdr.isSome = true) ∧
    (∃ t, exec .locate parsed = .next t ∧ decide (t.err ≠ 0xE0) = true) ∧
    (loaded.block = none ∧ located.hdr = none) ∧
    (∃ t, step (about (.writeCmd 0x01) loaded) = .next t ∧ t.block.isSome = true) ∧
    (∃ t, step (about (.writeReg 0x00 0x06) loaded) = .next t ∧
      (t.block.isSome && t.hdr.isSome) = true) ∧
    ∃ t, step (about (.writeCmd 0x02) located) = .next t ∧ t.hdr.isSome = true :=
  ⟨next_of _ (by decide), next_of _ (by decide), ⟨rfl, rfl⟩, next_of _ (by decide),
    next_of _ (by decide), next_of _ (by decide)⟩

end Sys2Proof.Tests
end

section
/-! PROOFS. The padding of 00_scope.md R9: rounding up to a multiple is a ceiling division. -/

namespace Sys2Proof.Machine

/-- The formula as written is the ceiling of `x / m`, times `m`. -/
theorem padToMultiple_eq_ceilDiv (x m : Nat) : padToMultiple x m = m * (x ⌈/⌉ m) := by
  rw [padToMultiple, Nat.ceilDiv_eq_add_pred_div, Nat.mul_comm]

theorem dvd_padToMultiple (x m : Nat) : m ∣ padToMultiple x m := Nat.dvd_mul_left m _

theorem le_padToMultiple {m : Nat} (x : Nat) (hm : 1 ≤ m) : x ≤ padToMultiple x m := by
  rw [padToMultiple_eq_ceilDiv]
  exact le_smul_ceilDiv (Nat.succ_le_iff.1 hm)

/-- No multiple of `m` between `x` and the padded value. -/
theorem padToMultiple_le_of_dvd {x m y : Nat} (hm : 1 ≤ m) (hd : m ∣ y) (hx : x ≤ y) :
    padToMultiple x m ≤ y := by
  obtain ⟨k, rfl⟩ := hd
  rw [padToMultiple_eq_ceilDiv]
  exact Nat.mul_le_mul_left m ((ceilDiv_le_iff_le_smul (Nat.succ_le_iff.1 hm)).2 hx)

/-- Settles O16: the ceiling division is the least factor that reaches `x`. -/
theorem padToMultipleIsLeast : Obligations.PadToMultipleIsLeast := fun x m hm =>
  ⟨rfl, dvd_padToMultiple x m, le_padToMultiple x hm, fun _ => padToMultiple_le_of_dvd hm⟩

end Sys2Proof.Machine
end

section
/-! PROOFS. The block-size table of 40_locator.md R80: the rows the spec fixes. -/

namespace Sys2Proof.Machine

/-- No table has a row for a mode above 7. -/
theorem blockSize_of_mode_ge (table : Config.BlockSizeTable) (v : Variant) {m : Byte}
    (hm : 8 ≤ m.toNat) : blockSize table v m = none :=
  dif_neg (Nat.not_lt.2 hm)

/-- Mode 0 of the machine's table is the documented entry of either variant. -/
theorem blockSize_mode_zero (v : Variant) :
    blockSize blockSizeTable v 0 = some (documentedEntry v).size := rfl

/-- Settles O10. -/
theorem blockSizeTableAsDocumented : Obligations.BlockSizeTableAsDocumented :=
  ⟨blockSize_mode_zero .a, blockSize_mode_zero .b,
    fun table v _ hm => blockSize_of_mode_ge table v hm⟩

end Sys2Proof.Machine
end

section
/-! PROOFS. Accesses stay inside FILE and GRID (00_scope.md R8, 20_memory.md R40): a stage sticks
only where a memory is too short for it, the invariant rules that out, and no transaction but a
command sticks at all. -/

namespace Sys2Proof.Machine

/-! ## The bounds the invariant gives -/

/-- The first bytes of a good block, up to its size, lie inside FILE. -/
theorem Block.blockInFile_of_wfIn {b : Block} {f : FileImage} {n : Nat}
    (hb : b.wfIn (some f) = true) (hn : n ≤ b.size.toNat) : blockInFile f b n = true := by
  obtain ⟨_, ⟨⟩, hend, -⟩ := (b.wfIn_iff _).1 hb
  rw [blockInFile_iff]
  omega

/-- The header of a good block ends before the block's least size does (R4, R5). -/
theorem Block.header_le_size {b : Block} {o : Option FileImage} (hb : b.wfIn o = true) :
    headerOffset + headerSize ≤ b.size.toNat := by
  obtain ⟨_, -, -, hmin⟩ := (b.wfIn_iff o).1 hb
  simp only [headerOffset, headerSize]
  omega

/-- The block LOCATE finds is the file's trailing slice: the length check keeps `len - size` from
wrapping (R83). -/
theorem locate_wfIn {table : Config.BlockSizeTable} {f : FileImage} {v : Variant} {m : Byte}
    {b : Block} (h : locate table f v m = .ok b) : b.wfIn (some f) = true := by
  obtain ⟨hsize, hle, hbase, -⟩ := locate_ok h
  refine (b.wfIn_iff _).2 ⟨f, rfl, ?_, blockSize_inRange hsize⟩
  rw [hbase, BitVec.toNat_sub_of_le hle]
  omega

/-! ## The stages -/

theorem locateBody_ne_stuck (table : Config.BlockSizeTable) (f : FileImage) (v : Variant)
    (m : Byte) (s : State) (e : Fault) : locateBody table f v m s ≠ .stuck e := by
  rcases locateBody_cases table f v m s with ⟨b, -, h⟩ | ⟨c, -, h⟩ <;> simp [h]

theorem parseBody_ne_stuck {b : Block} {s : State} (hb : b.wfIn s.file = true) (e : Fault) :
    parseBody b s ≠ .stuck e := by
  rcases parseBody_cases b s with ⟨f, o, -, -, -, h⟩ | ⟨f, -, -, -, h⟩ | ⟨hout, -⟩
  · simp [h]
  · simp [h]
  · obtain ⟨f, hf, -⟩ := (b.wfIn_iff _).1 hb
    have hin := Block.blockInFile_of_wfIn (hf ▸ hb) (Block.header_le_size hb)
    simp [hout f hf] at hin

theorem unpackBody_ne_stuck {b : Block} {s : State} (h : RawHeader) (hb : b.wfIn s.file = true)
    (e : Fault) : unpackBody b h s ≠ .stuck e := by
  rcases unpackBody_cases b h s with ⟨f, -, -, -, -, hx⟩ | ⟨-, hx⟩ | ⟨-, -, hx⟩ | ⟨-, -, hout, -⟩
  · simp [hx]
  · simp [hx]
  · simp [hx]
  · obtain ⟨f, hf, -⟩ := (b.wfIn_iff _).1 hb
    have hin := Block.blockInFile_of_wfIn (hf ▸ hb) le_rfl
    simp [hout f hf] at hin

theorem to3dBody_ne_stuck {g : Grid} (hg : g.sized = true) (s : State) (e : Fault) :
    to3dBody g s ≠ .stuck e := by
  rcases to3dBody_cases g s with ⟨-, h⟩ | ⟨hn, -⟩
  · simp [h]
  · simp [hg] at hn

theorem torgbBody_ne_stuck {g : Grid} (hg : g.sized = true) (s : State) (e : Fault) :
    torgbBody g s ≠ .stuck e := by
  rcases torgbBody_cases g s with ⟨-, h⟩ | ⟨-, -, h⟩ | ⟨-, -, -, h⟩ | ⟨-, -, hn, -⟩
  · simp [h]
  · simp [h]
  · simp [h]
  · simp [hg] at hn

/-- PARSE reads FILE and keeps it. -/
theorem parseBody_done_file {b : Block} {s s' : State} {h : RawHeader}
    (hp : parseBody b s = .done h s') : s'.file = s.file := by
  rcases parseBody_cases b s with ⟨f, o, -, -, -, hx⟩ | ⟨f, -, -, -, hx⟩ | ⟨-, hx⟩
  · obtain ⟨-, rfl⟩ := Stage.done.inj (hp.symm.trans hx)
    rfl
  · cases hp.symm.trans hx
  · cases hp.symm.trans hx

/-- LOCATE leaves the file and a good block of it. -/
theorem locateBody_done_wfIn {table : Config.BlockSizeTable} {f : FileImage} {v : Variant}
    {m : Byte} {s s' : State} {b : Block} (hf : s.file = some f)
    (hl : locateBody table f v m s = .done b s') : b.wfIn s'.file = true := by
  rcases locateBody_cases table f v m s with ⟨b', hloc, hx⟩ | ⟨c, -, hx⟩
  · obtain ⟨rfl, rfl⟩ := Stage.done.inj (hl.symm.trans hx)
    simpa [hf] using locate_wfIn hloc
  · cases hl.symm.trans hx

/-- DECODE reads only the block that its own LOCATE found. -/
theorem decodeBody_ne_stuck (table : Config.BlockSizeTable) {f : FileImage} (v : Variant)
    (m : Byte) {s : State} (hf : s.file = some f) (e : Fault) :
    decodeBody table f v m s ≠ .stuck e := by
  rcases decodeBody_cases table f v m s with ⟨c, s1, -, hx⟩ | ⟨b, s1, hl, hrest⟩
  · simp [hx]
  · have hb := locateBody_done_wfIn hf hl
    rcases hrest with ⟨c, s2, -, hx⟩ | ⟨e', hp, -⟩ | ⟨h, s2, hp, hx⟩
    · simp [hx]
    · exact absurd hp (parseBody_ne_stuck hb e')
    · rw [hx]
      exact unpackBody_ne_stuck h (parseBody_done_file hp ▸ hb) e

/-! ## The commands -/

theorem finish_ne_fault {α : Type} {x : Stage α} {e : Fault} (h : x ≠ .stuck e) :
    finish x ≠ .fault e := fun hx => h (finish_fault hx)

/-- In a good state every command comes to its end. -/
theorem exec_ne_fault (i : Instr) {s : State} (hs : s.wf = true) (e : Fault) :
    exec i s ≠ .fault e := by
  obtain ⟨-, hblock, -, hgrid, -⟩ := s.wf_iff.1 hs
  cases i with
  | locate =>
    rcases execLocate_cases s with ⟨-, h⟩ | ⟨f, v, m, -, -, -, h⟩
    · simp [h]
    · exact h ▸ finish_ne_fault (locateBody_ne_stuck _ f v m s e)
  | parse =>
    rcases execParse_cases s with ⟨-, h⟩ | ⟨b, hb, h⟩
    · simp [h]
    · exact h ▸ finish_ne_fault (parseBody_ne_stuck (hblock b hb) e)
  | unpack =>
    rcases execUnpack_cases s with ⟨-, h⟩ | ⟨b, hd, hb, -, h⟩
    · simp [h]
    · exact h ▸ finish_ne_fault (unpackBody_ne_stuck hd (hblock b hb) e)
  | to3d =>
    rcases execTo3d_cases s with ⟨-, h⟩ | ⟨g, hg, h⟩
    · simp [h]
    · exact h ▸ finish_ne_fault (to3dBody_ne_stuck (hgrid g hg) s e)
  | torgb =>
    rcases execTorgb_cases s with ⟨-, h⟩ | ⟨g, hg, h⟩
    · simp [h]
    · exact h ▸ finish_ne_fault (torgbBody_ne_stuck (hgrid g hg) s e)
  | decode =>
    rcases execDecode_cases s with ⟨-, h⟩ | ⟨f, v, m, hf, -, -, h⟩
    · simp [h]
    · exact h ▸ finish_ne_fault (decodeBody_ne_stuck _ v m hf e)

/-! ## The transactions -/

/-- A CMD write faults only where the command it runs does. -/
theorem runCommand_fault {c : Byte} {s : State} {e : Fault} (h : runCommand c s = .fault e) :
    ∃ i, decode c = .ok i ∧ exec i s = .fault e := by
  unfold runCommand at h
  split at h
  · cases h
  · rename_i i hi
    split at h
    · cases h
    · rename_i f hf
      exact ⟨i, hi, by injection h with h; rw [hf, h]⟩
    · cases h

theorem readRegister_ne_fault (n k : Nat) (s : State) (e : Fault) :
    readRegister n k s ≠ .fault e := by
  unfold readRegister replyWith
  repeat' split
  all_goals simp

theorem readMemory_ne_fault (a : MemAddr) (s : State) (e : Fault) : readMemory a s ≠ .fault e := by
  unfold readMemory replyWith
  repeat' split
  all_goals simp

theorem loadFile_ne_fault (bytes : List Byte) (s : State) (e : Fault) :
    loadFile bytes s ≠ .fault e := by
  unfold loadFile
  split <;> simp

theorem loadGrid_ne_fault (gh gw order : Nat) (samples : List U16) (s : State) (e : Fault) :
    loadGrid gh gw order samples s ≠ .fault e := by
  unfold loadGrid
  repeat' split
  all_goals simp

theorem setOrder_ne_fault (order : Nat) (s : State) (e : Fault) : setOrder order s ≠ .fault e := by
  unfold setOrder
  repeat' split
  all_goals simp

/-- A register write faults only as the CMD write it stands for. -/
theorem writeRegister_fault {n value : Nat} {s : State} {e : Fault}
    (h : writeRegister n value s = .fault e) : runCommand (BitVec.ofNat 8 value) s = .fault e := by
  unfold writeRegister at h
  split at h
  · cases h
  · split at h
    · exact h
    · cases h
  · split at h <;> cases h
  · split at h <;> cases h
  · exact absurd h (setOrder_ne_fault value s e)
  · cases h

/-- Of all the host can do, only running a command can fault. -/
theorem hostTransaction_fault {t : HostTransaction} {s : State} {e : Fault}
    (h : hostTransaction t s = .fault e) : ∃ i, exec i s = .fault e := by
  have ofCommand {c : Byte} (hc : runCommand c s = .fault e) : ∃ i, exec i s = .fault e :=
    let ⟨i, _, hi⟩ := runCommand_fault hc
    ⟨i, hi⟩
  cases t with
  | writeCmd c => exact ofCommand h
  | writeReg n value => exact ofCommand (writeRegister_fault h)
  | loadFile bytes => exact absurd h (loadFile_ne_fault bytes s e)
  | setParam v m => cases h
  | loadGrid gh gw order samples => exact absurd h (loadGrid_ne_fault gh gw order samples s e)
  | setOrder order => exact absurd h (setOrder_ne_fault order s e)
  | readReg n k => exact absurd h (readRegister_ne_fault n k s e)
  | readMem a => exact absurd h (readMemory_ne_fault a s e)
  | reset => cases h

/-! ## The step -/

/-- The invariant does not speak of the host's transactions still to come. -/
@[simp] theorem State.wf_withScript (s : State) (rest : List HostTransaction) :
    State.wf { s with script := rest } = s.wf := rfl

theorem step_idle {s : State} (h : s.script = []) : step s = .next s := by
  simp [step, h]

theorem step_of_script {s : State} {t : HostTransaction} {rest : List HostTransaction}
    (h : s.script = t :: rest) : step s = hostTransaction t { s with script := rest } := by
  simp [step, h]

/-- Settles O44: only a command can fault, and in a good state none does. -/
theorem stepNeverLeavesTheMemories : Obligations.StepNeverLeavesTheMemories := by
  intro s e hs
  cases hscript : s.script with
  | nil => simp [step_idle hscript]
  | cons t rest =>
    rw [step_of_script hscript]
    intro hfault
    obtain ⟨i, hi⟩ := hostTransaction_fault hfault
    exact exec_ne_fault i ((s.wf_withScript rest).trans hs) e hi

end Sys2Proof.Machine
end

section
/-! PROOFS. What a command that passed its sequence check can leave (60_exceptions.md R155 to R157),
as one relation; the frame, the report and the invariant of all six commands are read off it. -/

namespace Sys2Proof.Machine

/-! ## How a command's body ends -/

/-- `CommandEnds i s o s'`: the body of the command `i`, begun in `s`, can end in `s'`. With no
cause it has made its product, with a cause its clears stand (R156, R157); DECODE ends as the stage it
stops in (R146). The error report is not yet written. What is made is described as far as the frame, the
report and the invariant need it: `exec_next` says that no command ends otherwise. -/
inductive CommandEnds : Instr → State → Option Cause → State → Prop
  | locateFails {s : State} {c : Cause}
      (hc : c = .unknownSensorMode ∨ c = .blockMissing ∨ c = .malformedContainer) :
      CommandEnds .locate s (some c) { s with block := none, hdr := none }
  | locates {s : State} {b : Block} (hb : b.wfIn s.file = true) :
      CommandEnds .locate s none { s with block := some b, hdr := none }
  | parseFails {s : State} :
      CommandEnds .parse s (some .unrecognizedCfaCode) { s with hdr := none }
  | parses {s : State} {h : RawHeader} (hh : h.wf = true) :
      CommandEnds .parse s none { s with hdr := some h }
  | unpackFails {s : State} {c : Cause} (hc : c = .blockSizeMismatch ∨ c = .invalidRowWidth) :
      CommandEnds .unpack s (some c) { s with grid := none }
  | unpacks {s : State} {g : Grid} (hg : g.sized = true) :
      CommandEnds .unpack s none { s with grid := some g }
  | makesCh3 {s : State} (g : Grid) :
      CommandEnds .to3d s none { s with ch3 := some (to3dImage g) }
  | torgbFails {s : State} (d : Dimension) {x : U16} (hx : x.toNat % 2 = 1) :
      CommandEnds .torgb s (some (.unevenDimension d x)) { s with rgb := none }
  | makesRgb {s : State} (g : Grid) :
      CommandEnds .torgb s none { s with rgb := some (toRgbImage g) }
  | decodeLocateFails {s s₁ : State} {c : Cause} (hl : CommandEnds .locate s (some c) s₁) :
      CommandEnds .decode s (some c) s₁
  | decodeParseFails {s s₁ s₂ : State} {c : Cause} (hl : CommandEnds .locate s none s₁)
      (hp : CommandEnds .parse s₁ (some c) s₂) : CommandEnds .decode s (some c) s₂
  | decodeUnpackEnds {s s₁ s₂ s₃ : State} {o : Option Cause} (hl : CommandEnds .locate s none s₁)
      (hp : CommandEnds .parse s₁ none s₂) (hu : CommandEnds .unpack s₂ o s₃) :
      CommandEnds .decode s o s₃

/-- The stage ends, if it is not stuck, as the body of the command `i` begun in `s` can. -/
def Stage.EndsAs {α : Type} (i : Instr) (s : State) : Stage α → Prop
  | .done _ s' => CommandEnds i s none s'
  | .raised c s' => CommandEnds i s (some c) s'
  | .stuck _ => True

theorem locateBody_endsAs (table : Config.BlockSizeTable) {f : FileImage} (v : Variant) (m : Byte)
    {s : State} (hf : s.file = some f) : (locateBody table f v m s).EndsAs .locate s := by
  rcases locateBody_cases table f v m s with ⟨b, hl, hx⟩ | ⟨c, hl, hx⟩ <;> rw [hx]
  · exact .locates (hf ▸ locate_wfIn hl)
  · exact .locateFails (locate_error hl)

theorem parseBody_endsAs (b : Block) (s : State) : (parseBody b s).EndsAs .parse s := by
  rcases parseBody_cases b s with ⟨f, o, -, -, ho, hx⟩ | ⟨f, -, -, -, hx⟩ | ⟨-, hx⟩ <;> rw [hx]
  · exact .parses (headerFields_wf ho)
  · exact .parseFails
  · trivial

theorem unpackBody_endsAs (b : Block) (h : RawHeader) (s : State) :
    (unpackBody b h s).EndsAs .unpack s := by
  rcases unpackBody_cases b h s with
    ⟨f, -, -, -, -, hx⟩ | ⟨-, hx⟩ | ⟨-, -, hx⟩ | ⟨-, -, -, hx⟩ <;> rw [hx]
  · exact .unpacks (unpackGrid_sized _ h)
  · exact .unpackFails (.inl rfl)
  · exact .unpackFails (.inr rfl)
  · trivial

theorem to3dBody_endsAs (g : Grid) (s : State) : (to3dBody g s).EndsAs .to3d s := by
  rcases to3dBody_cases g s with ⟨-, hx⟩ | ⟨-, hx⟩ <;> rw [hx]
  · exact .makesCh3 g
  · trivial

theorem torgbBody_endsAs (g : Grid) (s : State) : (torgbBody g s).EndsAs .torgb s := by
  rcases torgbBody_cases g s with
    ⟨hw, hx⟩ | ⟨-, hh, hx⟩ | ⟨-, -, -, hx⟩ | ⟨-, -, -, hx⟩ <;> rw [hx]
  · exact .torgbFails .width hw
  · exact .torgbFails .height hh
  · exact .makesRgb g
  · trivial

/-- After LOCATE and PARSE, DECODE ends as UNPACK does. -/
theorem Stage.EndsAs.decode_of_unpack {α : Type} {s s₁ s₂ : State} {x : Stage α}
    (hl : CommandEnds .locate s none s₁) (hp : CommandEnds .parse s₁ none s₂)
    (hu : x.EndsAs .unpack s₂) : x.EndsAs .decode s := by
  cases x with
  | done g s₃ => exact .decodeUnpackEnds hl hp hu
  | raised c s₃ => exact .decodeUnpackEnds hl hp hu
  | stuck e => trivial

theorem decodeBody_endsAs (table : Config.BlockSizeTable) {f : FileImage} (v : Variant) (m : Byte)
    {s : State} (hf : s.file = some f) : (decodeBody table f v m s).EndsAs .decode s := by
  have locateEnds := locateBody_endsAs table v m hf
  rcases decodeBody_cases table f v m s with ⟨c, s₁, hl, hx⟩ | ⟨b, s₁, hl, hrest⟩ <;>
    rw [hl] at locateEnds
  · exact hx ▸ .decodeLocateFails locateEnds
  · have parseEnds := parseBody_endsAs b s₁
    rcases hrest with ⟨c, s₂, hp, hx⟩ | ⟨e, hp, hx⟩ | ⟨h, s₂, hp, hx⟩ <;>
      rw [hp] at parseEnds <;> rw [hx]
    · exact .decodeParseFails locateEnds parseEnds
    · trivial
    · exact (unpackBody_endsAs b h s₂).decode_of_unpack locateEnds parseEnds

/-! ## The report of a command -/

/-- The one write of ERR and its payload that ends a command (R23). -/
def report : Option Cause → State → State
  | none => succeed
  | some c => raise c

theorem finish_endsAs {α : Type} {i : Instr} {s t : State} {x : Stage α} (hx : x.EndsAs i s)
    (h : finish x = .next t) : ∃ o s', CommandEnds i s o s' ∧ t = report o s' := by
  rcases finish_next h with ⟨a, s', rfl, rfl⟩ | ⟨c, s', rfl, rfl⟩
  · exact ⟨none, s', hx, rfl⟩
  · exact ⟨some c, s', hx, rfl⟩

/-- A command that ends was out of sequence and only reported, or ran its body and reported how that
ended. -/
theorem exec_next {i : Instr} {s t : State} (h : exec i s = .next t) :
    t = raise .sequenceError s ∨ ∃ o s', CommandEnds i s o s' ∧ t = report o s' := by
  have outOfSequence (hx : exec i s = .next (raise .sequenceError s)) :
      t = raise .sequenceError s := Host.Outcome.next.inj (h.symm.trans hx)
  cases i with
  | locate =>
    rcases execLocate_cases s with ⟨-, hx⟩ | ⟨f, v, m, hf, -, -, hx⟩
    · exact .inl (outOfSequence hx)
    · exact .inr (finish_endsAs (locateBody_endsAs _ v m hf) (hx ▸ h))
  | parse =>
    rcases execParse_cases s with ⟨-, hx⟩ | ⟨b, -, hx⟩
    · exact .inl (outOfSequence hx)
    · exact .inr (finish_endsAs (parseBody_endsAs b s) (hx ▸ h))
  | unpack =>
    rcases execUnpack_cases s with ⟨-, hx⟩ | ⟨b, hd, -, -, hx⟩
    · exact .inl (outOfSequence hx)
    · exact .inr (finish_endsAs (unpackBody_endsAs b hd s) (hx ▸ h))
  | to3d =>
    rcases execTo3d_cases s with ⟨-, hx⟩ | ⟨g, -, hx⟩
    · exact .inl (outOfSequence hx)
    · exact .inr (finish_endsAs (to3dBody_endsAs g s) (hx ▸ h))
  | torgb =>
    rcases execTorgb_cases s with ⟨-, hx⟩ | ⟨g, -, hx⟩
    · exact .inl (outOfSequence hx)
    · exact .inr (finish_endsAs (torgbBody_endsAs g s) (hx ▸ h))
  | decode =>
    rcases execDecode_cases s with ⟨-, hx⟩ | ⟨f, v, m, hf, -, -, hx⟩
    · exact .inl (outOfSequence hx)
    · exact .inr (finish_endsAs (decodeBody_endsAs _ v m hf) (hx ▸ h))

/-- A command that failed past its sequence check ran its body to a cause. -/
theorem exec_failed {i : Instr} {s t : State} (h : exec i s = .next t) (hok : t.err ≠ 0x00)
    (hseq : t.err ≠ 0xE0) : ∃ c s', CommandEnds i s (some c) s' ∧ t = raise c s' := by
  rcases exec_next h with rfl | ⟨o, s', hends, rfl⟩
  · exact absurd rfl hseq
  · cases o with
    | none => exact absurd rfl hok
    | some c => exact ⟨c, s', hends, rfl⟩

/-! ## What a failed body leaves -/

theorem CommandEnds.locate_failed {s s' : State} {c : Cause}
    (h : CommandEnds .locate s (some c) s') :
    (c = .unknownSensorMode ∨ c = .blockMissing ∨ c = .malformedContainer) ∧
      s'.block = none ∧ s'.hdr = none := by
  cases h with
  | locateFails hc => exact ⟨hc, rfl, rfl⟩

theorem CommandEnds.parse_failed {s s' : State} {c : Cause}
    (h : CommandEnds .parse s (some c) s') : c = .unrecognizedCfaCode ∧ s'.hdr = none := by
  cases h with
  | parseFails => exact ⟨rfl, rfl⟩

theorem CommandEnds.unpack_failed {s s' : State} {c : Cause}
    (h : CommandEnds .unpack s (some c) s') :
    (c = .blockSizeMismatch ∨ c = .invalidRowWidth) ∧ s'.grid = none := by
  cases h with
  | unpackFails hc => exact ⟨hc, rfl⟩

theorem CommandEnds.to3d_not_failed {s s' : State} {c : Cause} :
    ¬ CommandEnds .to3d s (some c) s' := nofun

theorem CommandEnds.torgb_failed {s s' : State} {c : Cause}
    (h : CommandEnds .torgb s (some c) s') :
    (∃ d x, c = .unevenDimension d x ∧ x.toNat % 2 = 1) ∧ s'.rgb = none := by
  cases h with
  | torgbFails d hx => exact ⟨⟨d, _, rfl, hx⟩, rfl⟩

/-- DECODE fails as the stage it stops in, and that stage's clears stand (R146). -/
theorem CommandEnds.decode_failed {s s' : State} {c : Cause}
    (h : CommandEnds .decode s (some c) s') :
    ((c = .unknownSensorMode ∨ c = .blockMissing ∨ c = .malformedContainer) ∧
      s'.block = none ∧ s'.hdr = none) ∨
    (c = .unrecognizedCfaCode ∧ s'.hdr = none) ∨
    ((c = .blockSizeMismatch ∨ c = .invalidRowWidth) ∧ s'.grid = none) := by
  cases h with
  | decodeLocateFails hl => exact .inl hl.locate_failed
  | decodeParseFails _ hp => exact .inr (.inl hp.parse_failed)
  | decodeUnpackEnds _ _ hu => exact .inr (.inr hu.unpack_failed)

/-- The causes that carry no payload and are not the illegal byte's. -/
def Cause.isPlain : Cause → Bool
  | .unevenDimension _ _ => false
  | .illegalCommand => false
  | _ => true

/-- Only TORGB's body raises a cause with a payload, and no body raises IllegalCommand. -/
theorem CommandEnds.cause {i : Instr} {s s' : State} {c : Cause}
    (h : CommandEnds i s (some c) s') :
    c.isPlain = true ∨ i = .torgb ∧ ∃ d x, c = .unevenDimension d x ∧ x.toNat % 2 = 1 := by
  cases i with
  | locate => obtain ⟨rfl | rfl | rfl, -⟩ := h.locate_failed <;> exact .inl rfl
  | parse => obtain ⟨rfl, -⟩ := h.parse_failed; exact .inl rfl
  | unpack => obtain ⟨rfl | rfl, -⟩ := h.unpack_failed <;> exact .inl rfl
  | to3d => exact absurd h CommandEnds.to3d_not_failed
  | torgb => exact .inr ⟨rfl, h.torgb_failed.1⟩
  | decode =>
    obtain ⟨rfl | rfl | rfl, -⟩ | ⟨rfl, -⟩ | ⟨rfl | rfl, -⟩ := h.decode_failed <;> exact .inl rfl

/-! ## What no body writes -/

/-- The state `s'` differs from `s` at most in products that the command `i` makes or clears
(R27, R53). -/
structure WritesOnlyOwn (i : Instr) (s s' : State) : Prop where
  variant : s'.variant = s.variant
  mode : s'.mode = s.mode
  file : s'.file = s.file
  script : s'.script = s.script
  hostReply : s'.hostReply = s.hostReply
  block : i ≠ .locate → i ≠ .decode → s'.block = s.block
  hdr : i ≠ .locate → i ≠ .parse → i ≠ .decode → s'.hdr = s.hdr
  grid : i ≠ .unpack → i ≠ .decode → s'.grid = s.grid
  ch3 : i ≠ .to3d → s'.ch3 = s.ch3
  rgb : i ≠ .torgb → s'.rgb = s.rgb

/-- A stage of DECODE writes only what DECODE owns. -/
theorem WritesOnlyOwn.decode {i : Instr} {s s' : State} (h : WritesOnlyOwn i s s')
    (h3 : i ≠ .to3d) (hr : i ≠ .torgb) : WritesOnlyOwn .decode s s' :=
  { h with
    block := by simp
    hdr := by simp
    grid := by simp
    ch3 := fun _ => h.ch3 h3
    rgb := fun _ => h.rgb hr }

theorem WritesOnlyOwn.trans {i : Instr} {s₁ s₂ s₃ : State} (h : WritesOnlyOwn i s₁ s₂)
    (h' : WritesOnlyOwn i s₂ s₃) : WritesOnlyOwn i s₁ s₃ where
  variant := h'.variant.trans h.variant
  mode := h'.mode.trans h.mode
  file := h'.file.trans h.file
  script := h'.script.trans h.script
  hostReply := h'.hostReply.trans h.hostReply
  block hl hd := (h'.block hl hd).trans (h.block hl hd)
  hdr hl hp hd := (h'.hdr hl hp hd).trans (h.hdr hl hp hd)
  grid hu hd := (h'.grid hu hd).trans (h.grid hu hd)
  ch3 h3 := (h'.ch3 h3).trans (h.ch3 h3)
  rgb hr := (h'.rgb hr).trans (h.rgb hr)

theorem CommandEnds.writesOnlyOwn {i : Instr} {s s' : State} {o : Option Cause}
    (h : CommandEnds i s o s') : WritesOnlyOwn i s s' := by
  induction h with
  | decodeLocateFails _ locateOwn => exact locateOwn.decode nofun nofun
  | decodeParseFails _ _ locateOwn parseOwn =>
    exact (locateOwn.decode nofun nofun).trans (parseOwn.decode nofun nofun)
  | decodeUnpackEnds _ _ _ locateOwn parseOwn unpackOwn =>
    exact ((locateOwn.decode nofun nofun).trans (parseOwn.decode nofun nofun)).trans
      (unpackOwn.decode nofun nofun)
  | _ => constructor <;> simp

theorem WritesOnlyOwn.report {i : Instr} {s s' : State} (h : WritesOnlyOwn i s s')
    (o : Option Cause) : WritesOnlyOwn i s (report o s') := by
  cases o <;> exact { h with }

theorem exec_writesOnlyOwn {i : Instr} {s t : State} (h : exec i s = .next t) :
    WritesOnlyOwn i s t := by
  rcases exec_next h with rfl | ⟨o, s', hends, rfl⟩
  · constructor <;> simp
  · exact hends.writesOnlyOwn.report o

/-- Settles O42: a memory's elements are read off its product. -/
theorem commandsWriteOnlyTheirProducts : Obligations.CommandsWriteOnlyTheirProducts := by
  intro i s t h
  have own := exec_writesOnlyOwn h
  refine ⟨own.variant, own.mode, own.file, own.script, own.hostReply, own.block, own.hdr, own.grid,
    own.ch3, own.rgb, fun a => ?_, fun hu hd r c => ?_, fun h3 r c k => ?_, fun hr r c k => ?_⟩
  · rw [fileElem, own.file, fileElem]
  · rw [gridElem, own.grid hu hd, gridElem]
  · rw [ch3Elem, own.ch3 h3, ch3Elem]
  · rw [rgbElem, own.rgb hr, rgbElem]

/-! ## What a command reports -/

/-- FAULT is the report's to set: no body writes it (R25, R158). -/
theorem CommandEnds.fault {i : Instr} {s s' : State} {o : Option Cause}
    (h : CommandEnds i s o s') : s'.fault = s.fault := by
  induction h with
  | decodeLocateFails _ locateKeeps => exact locateKeeps
  | decodeParseFails _ _ locateKeeps parseKeeps => exact parseKeeps.trans locateKeeps
  | decodeUnpackEnds _ _ _ locateKeeps parseKeeps unpackKeeps =>
    exact unpackKeeps.trans (parseKeeps.trans locateKeeps)
  | _ => rfl

theorem causeCode_listed (c : Cause) : causeCode c ∈ listedCodes := by
  cases c <;> simp [causeCode, listedCodes]

/-- A plain cause records no payload, and its code is neither the uneven dimension's nor the illegal
byte's. -/
theorem Cause.report_of_isPlain {c : Cause} (h : c.isPlain = true) :
    causeCode c ≠ 0x41 ∧ causeCode c ≠ 0xF0 ∧ causeDim c = 0 ∧ causeVal c = 0 := by
  cases c with
  | unevenDimension d x => cases h
  | illegalCommand => cases h
  | _ => simp [causeCode, causeDim, causeVal]

/-- A command succeeds and keeps FAULT, or reports a plain cause, or is TORGB and names an odd
dimension. -/
theorem exec_report {i : Instr} {s t : State} (h : exec i s = .next t) :
    (∃ s', t = succeed s' ∧ s'.fault = s.fault) ∨
    (∃ c s', t = raise c s' ∧ c.isPlain = true) ∨
    ∃ d x s', t = raise (.unevenDimension d x) s' ∧ i = .torgb ∧ x.toNat % 2 = 1 := by
  rcases exec_next h with rfl | ⟨_ | c, s', hends, rfl⟩
  · exact .inr (.inl ⟨_, s, rfl, rfl⟩)
  · exact .inl ⟨s', rfl, hends.fault⟩
  · rcases hends.cause with hplain | ⟨hi, d, x, rfl, hodd⟩
    · exact .inr (.inl ⟨c, s', rfl, hplain⟩)
    · exact .inr (.inr ⟨d, x, s', rfl, hi, hodd⟩)

/-- Settles O40. -/
theorem commandsReportListedResults : Obligations.CommandsReportListedResults := by
  intro i s t h
  rcases exec_report h with ⟨s', rfl, hfault⟩ | ⟨c, s', rfl, hplain⟩ | ⟨d, x, s', rfl, hi, -⟩
  · simp [hfault, listedCodes]
  · obtain ⟨hdim, hill, hpayload⟩ := c.report_of_isPlain hplain
    exact ⟨causeCode_listed c, hill, fun _ => hpayload, fun h41 => absurd h41 hdim, fun _ => rfl,
      fun h0 => absurd h0 (causeCode_ne_ok c)⟩
  · simp [causeCode, listedCodes, hi]

end Sys2Proof.Machine
end

section
/-! PROOFS. The invariant of PCRAW's state (10_state.md R10 to R25): what the commands make meets
it, and no other transaction breaks it. -/

namespace Sys2Proof.Machine

/-! ## The elements of CH3 and RGB, three by three -/

/-- What the empty list has and concatenation keeps, a concatenation of many lists has. -/
theorem flatMap_of_append {α β : Type} {p : List β → Prop} (hnil : p [])
    (happend : ∀ xs ys, p xs → p ys → p (xs ++ ys)) {f : α → List β} (l : List α)
    (hf : ∀ a ∈ l, p (f a)) : p (l.flatMap f) := by
  induction l with
  | nil => exact hnil
  | cons a l ih =>
    rw [List.forall_mem_cons] at hf
    exact happend _ _ hf.1 (ih hf.2)

/-- An `h × w × 3` array has what the three elements of every pixel have, if concatenation keeps
it. -/
theorem tabulate3_of_append {α : Type} {p : List α → Prop} (hnil : p [])
    (happend : ∀ xs ys, p xs → p ys → p (xs ++ ys)) (h w : Nat) {f : Nat → Nat → Nat → α}
    (hf : ∀ r c, p [f r c 0, f r c 1, f r c 2]) : p (tabulate3 h w f) :=
  flatMap_of_append hnil happend _ fun r _ =>
    flatMap_of_append hnil happend _ fun c _ => hf r c

theorem onePerPixel_append (xs ys : List U16) (hx : onePerPixel xs = true)
    (hy : onePerPixel ys = true) : onePerPixel (xs ++ ys) = true := by
  fun_induction onePerPixel xs with
  | case1 => exact hy
  | case2 x y z rest ih =>
    rw [Bool.and_eq_true] at hx
    simp only [List.cons_append, onePerPixel, hx.1, ih hx.2, Bool.and_self]
  | case3 => cases hx

theorem wholeOuter_append (xs ys : List Q16) (hx : wholeOuter xs = true)
    (hy : wholeOuter ys = true) : wholeOuter (xs ++ ys) = true := by
  fun_induction wholeOuter xs with
  | case1 => exact hy
  | case2 x y z rest ih =>
    rw [Bool.and_eq_true] at hx
    simp only [List.cons_append, wholeOuter, hx.1, ih hx.2, Bool.and_self]
  | case3 => cases hx

/-- TO3D's image has its size, and in each pixel only the channel of the position (R121). -/
theorem to3dImage_wf (g : Grid) : (to3dImage g).wf = true := by
  have pixel (r c : Nat) : onePerPixel [ch3At g r c 0, ch3At g r c 1, ch3At g r c 2] = true := by
    have : chan g.order r c < 3 := by
      rw [chan]
      cases colour g.order r c <;> decide
    interval_cases hk : chan g.order r c <;> simp [onePerPixel, ch3At, hk]
  rw [ChannelImage.wf, Bool.and_eq_true, decide_eq_true_eq]
  exact ⟨length_tabulate3 _ _ _, tabulate3_of_append (by rfl) onePerPixel_append _ _ pixel⟩

/-- Twice a sample, at 17 bits, is even and stands for at most 65535 (R70). -/
theorem doubled_toNat (x : U16) : (x.setWidth 17 <<< 1 : Q16).toNat = 2 * x.toNat := by
  bv_omega

theorem sum_toNat (x y : U16) :
    (x.setWidth 17 + y.setWidth 17 : Q16).toNat = x.toNat + y.toNat := by
  bv_omega

/-- TORGB's image has its size, and its red and blue are whole (R125, R126). -/
theorem toRgbImage_wf (g : Grid) : (toRgbImage g).wf = true := by
  have bound (t u : Nat) (offset : Nat × Nat) : (tileSample g t u offset).toNat ≤ 65535 :=
    Nat.le_of_lt_succ (BitVec.isLt _)
  have pixel (t u : Nat) : wholeOuter [rgbAt g t u 0, rgbAt g t u 1, rgbAt g t u 2] = true := by
    have hred := bound t u (redAt g.order)
    have hgreen₁ := bound t u (green1At g.order)
    have hgreen₂ := bound t u (green2At g.order)
    have hblue := bound t u (blueAt g.order)
    simp only [wholeOuter, rgbAt, doubled_toNat, sum_toNat, Bool.and_eq_true, decide_eq_true_eq,
      Bool.and_true]
    omega
  rw [RgbImage.wf, Bool.and_eq_true, decide_eq_true_eq]
  refine ⟨?_, tabulate3_of_append (by rfl) wholeOuter_append _ _ pixel⟩
  simp [toRgbImage]

/-! ## The products -/

/-- The clauses of the invariant that speak of FILE and the products. -/
structure ProductsWf (s : State) : Prop where
  file : ∀ f, s.file = some f → f.wf = true
  block : ∀ b, s.block = some b → b.wfIn s.file = true
  hdr : ∀ h, s.hdr = some h → h.wf = true
  grid : ∀ g, s.grid = some g → g.sized = true
  ch3 : ∀ x, s.ch3 = some x → x.wf = true
  rgb : ∀ x, s.rgb = some x → x.wf = true

theorem State.wf_iff_products_report (s : State) :
    s.wf = true ↔ ProductsWf s ∧ reportWf s = true := by
  rw [State.wf_iff]
  exact ⟨fun ⟨hf, hb, hh, hg, hc, hr, hrep⟩ => ⟨⟨hf, hb, hh, hg, hc, hr⟩, hrep⟩,
    fun ⟨⟨hf, hb, hh, hg, hc, hr⟩, hrep⟩ => ⟨hf, hb, hh, hg, hc, hr, hrep⟩⟩

/-- What a body makes is well-formed, and what it clears asks nothing. -/
theorem CommandEnds.productsWf {i : Instr} {s s' : State} {o : Option Cause}
    (h : CommandEnds i s o s') (hs : ProductsWf s) : ProductsWf s' := by
  induction h with
  | locateFails _ => exact { hs with block := nofun, hdr := nofun }
  | locates hb => exact { hs with block := by rintro _ ⟨⟩; exact hb, hdr := nofun }
  | parseFails => exact { hs with hdr := nofun }
  | parses hh => exact { hs with hdr := by rintro _ ⟨⟩; exact hh }
  | unpackFails _ => exact { hs with grid := nofun }
  | unpacks hg => exact { hs with grid := by rintro _ ⟨⟩; exact hg }
  | makesCh3 g => exact { hs with ch3 := by rintro _ ⟨⟩; exact to3dImage_wf g }
  | torgbFails _ _ => exact { hs with rgb := nofun }
  | makesRgb g => exact { hs with rgb := by rintro _ ⟨⟩; exact toRgbImage_wf g }
  | decodeLocateFails _ locateKeeps => exact locateKeeps hs
  | decodeParseFails _ _ locateKeeps parseKeeps => exact parseKeeps (locateKeeps hs)
  | decodeUnpackEnds _ _ _ locateKeeps parseKeeps unpackKeeps =>
    exact unpackKeeps (parseKeeps (locateKeeps hs))

theorem ProductsWf.report {s : State} (hs : ProductsWf s) (o : Option Cause) :
    ProductsWf (report o s) := by
  cases o <;> exact { hs with }

/-! ## The commands -/

theorem reportWf_succeed (s : State) : reportWf (succeed s) = true := by
  rw [reportWf_iff]
  simp [listedCodes]

theorem reportWf_raise_of_isPlain {c : Cause} (h : c.isPlain = true) (s : State) :
    reportWf (raise c s) = true := by
  obtain ⟨hdim, -, hpayload⟩ := c.report_of_isPlain h
  exact (reportWf_iff _).2
    ⟨causeCode_listed c, fun h41 => absurd h41 hdim, fun _ => hpayload, .inr rfl⟩

theorem reportWf_raise_unevenDimension (d : Dimension) {x : U16} (h : x.toNat % 2 = 1)
    (s : State) : reportWf (raise (.unevenDimension d x) s) = true :=
  (reportWf_iff _).2
    ⟨causeCode_listed (.unevenDimension d x), fun _ => h, fun h41 => absurd rfl h41, .inr rfl⟩

theorem exec_reportWf {i : Instr} {s t : State} (h : exec i s = .next t) : reportWf t = true := by
  rcases exec_report h with ⟨s', rfl, -⟩ | ⟨c, s', rfl, hplain⟩ | ⟨d, x, s', rfl, -, hodd⟩
  · exact reportWf_succeed s'
  · exact reportWf_raise_of_isPlain hplain s'
  · exact reportWf_raise_unevenDimension d hodd s'

theorem exec_productsWf {i : Instr} {s t : State} (h : exec i s = .next t) (hs : ProductsWf s) :
    ProductsWf t := by
  rcases exec_next h with rfl | ⟨o, s', hends, rfl⟩
  · exact hs.report (some .sequenceError)
  · exact (hends.productsWf hs).report o

/-! ## The transactions -/

theorem runCommand_wf {c : Byte} {s t : State} (h : runCommand c s = .next t) (hs : s.wf = true) :
    t.wf = true := by
  obtain ⟨products, -⟩ := s.wf_iff_products_report.1 hs
  rcases runCommand_next h with ⟨-, -, rfl⟩ | ⟨i, u, -, hu, rfl⟩
  · refine (State.wf_iff_products_report (raise .illegalCommand s)).2
      ⟨products.report (some .illegalCommand), ?_⟩
    rw [reportWf_iff]
    simp [causeCode, causeDim, causeVal, listedCodes]
  · exact u.wf_iff_products_report.2 ⟨exec_productsWf hu products, exec_reportWf hu⟩

/-- H_SETORDER keeps the shape and the samples of the grid. -/
theorem setOrder_wf {order : Nat} {s t : State} (h : setOrder order s = .next t)
    (hs : s.wf = true) : t.wf = true := by
  obtain ⟨products, hreport⟩ := s.wf_iff_products_report.1 hs
  obtain ⟨o, g, -, hg, rfl⟩ := setOrder_next h
  exact (State.wf_iff_products_report _).2
    ⟨{ products with grid := by rintro _ ⟨⟩; exact products.grid g hg }, hreport⟩

theorem loadGrid_wf {gh gw order : Nat} {samples : List U16} {s t : State}
    (h : loadGrid gh gw order samples s = .next t) (hs : s.wf = true) : t.wf = true := by
  obtain ⟨products, hreport⟩ := s.wf_iff_products_report.1 hs
  obtain ⟨o, -, hh, hw, hlen, rfl⟩ := loadGrid_next h
  have sized : (Grid.mk (BitVec.ofNat 16 gh) (BitVec.ofNat 16 gw) o samples).sized = true := by
    rw [Grid.sized_iff, BitVec.toNat_ofNat, BitVec.toNat_ofNat, Nat.mod_eq_of_lt hh,
      Nat.mod_eq_of_lt hw]
    exact hlen
  exact (State.wf_iff_products_report _).2
    ⟨{ products with grid := by rintro _ ⟨⟩; exact sized }, hreport⟩

/-- H_LOADFILE drops the block, which would be a slice of the old file (R141). -/
theorem loadFile_wf {bytes : List Byte} {s t : State} (h : loadFile bytes s = .next t)
    (hs : s.wf = true) : t.wf = true := by
  obtain ⟨products, hreport⟩ := s.wf_iff_products_report.1 hs
  obtain ⟨hlen, rfl⟩ := loadFile_next h
  exact (State.wf_iff_products_report _).2
    ⟨{ products with
        file := by rintro _ ⟨⟩; exact FileImage.ofBytes_wf bytes hlen
        block := nofun }, hreport⟩

theorem writeRegister_wf {n value : Nat} {s t : State} (h : writeRegister n value s = .next t)
    (hs : s.wf = true) : t.wf = true := by
  rcases writeRegister_next h with hcmd | ⟨v, rfl⟩ | rfl | horder
  · exact runCommand_wf hcmd hs
  · exact hs
  · exact hs
  · exact setOrder_wf horder hs

/-- Settles O9. -/
theorem resetMeetsTheInvariant : Obligations.ResetMeetsTheInvariant := by
  unfold Obligations.ResetMeetsTheInvariant
  decide

theorem hostTransaction_wf {tr : HostTransaction} {s t : State}
    (h : hostTransaction tr s = .next t) (hs : s.wf = true) : t.wf = true := by
  cases tr with
  | loadFile bytes => exact loadFile_wf h hs
  | setParam v m => obtain rfl := Host.Outcome.next.inj h; exact hs
  | loadGrid gh gw order samples => exact loadGrid_wf h hs
  | setOrder order => exact setOrder_wf h hs
  | writeCmd c => exact runCommand_wf h hs
  | writeReg n value => exact writeRegister_wf h hs
  | readReg n k => obtain ⟨v, rfl⟩ := readRegister_next h; exact hs
  | readMem a => obtain ⟨v, -, rfl⟩ := readMemory_next h; exact hs
  | reset => obtain rfl := Host.Outcome.next.inj h; exact resetMeetsTheInvariant

/-- Settles O43: an idle step keeps the state, and no transaction breaks the invariant. -/
theorem stepKeepsTheInvariant : Obligations.StepKeepsTheInvariant := by
  intro s t hs h
  cases hscript : s.script with
  | nil => exact Host.Outcome.next.inj ((step_idle hscript).symm.trans h) ▸ hs
  | cons tr rest =>
    exact hostTransaction_wf ((step_of_script hscript).symm.trans h)
      ((s.wf_withScript rest).trans hs)

end Sys2Proof.Machine
end

section
/-! PROOFS. FAULT over steps and runs (10_state.md R25, 44_decode.md R148): only reset clears it. -/

namespace Sys2Proof.Machine

/-! ## What a transaction does to FAULT and to the host's script -/

/-- A command that ends with an error has set FAULT, and one that does not has kept it. -/
theorem runCommand_fault_report {c : Byte} {s t : State} (h : runCommand c s = .next t) :
    (t.err ≠ 0x00 → t.fault = true) ∧ (t.err = 0x00 → t.fault = s.fault) := by
  rcases runCommand_next h with ⟨-, -, rfl⟩ | ⟨i, u, -, hu, rfl⟩
  · exact ⟨fun _ => rfl, fun hok => absurd hok (causeCode_ne_ok .illegalCommand)⟩
  · obtain ⟨-, -, -, -, sets, keeps⟩ := commandsReportListedResults i s u hu
    exact ⟨sets, keeps⟩

theorem runCommand_keeps_fault {c : Byte} {s t : State} (h : runCommand c s = .next t)
    (hs : s.fault = true) : t.fault = true := by
  obtain ⟨sets, keeps⟩ := runCommand_fault_report h
  by_cases hok : t.err = 0x00
  · exact (keeps hok).trans hs
  · exact sets hok

theorem runCommand_script {c : Byte} {s t : State} (h : runCommand c s = .next t) :
    t.script = s.script := by
  rcases runCommand_next h with ⟨-, -, rfl⟩ | ⟨i, u, -, hu, rfl⟩
  · rfl
  · exact (exec_writesOnlyOwn hu).script

/-- A transaction other than a reset either keeps FAULT and the script or is a CMD write, whatever
port it came through. -/
theorem hostTransaction_frame {tr : HostTransaction} {s t : State}
    (h : hostTransaction tr s = .next t) (hreset : tr ≠ .reset) :
    (∃ c, runCommand c s = .next t) ∨ t.fault = s.fault ∧ t.script = s.script := by
  have ofSetOrder {order : Nat} (ho : setOrder order s = .next t) :
      t.fault = s.fault ∧ t.script = s.script := by
    obtain ⟨o, g, -, -, rfl⟩ := setOrder_next ho
    exact ⟨rfl, rfl⟩
  cases tr with
  | loadFile bytes => obtain ⟨-, rfl⟩ := loadFile_next h; exact .inr ⟨rfl, rfl⟩
  | setParam v m => obtain rfl := Host.Outcome.next.inj h; exact .inr ⟨rfl, rfl⟩
  | loadGrid gh gw order samples =>
    obtain ⟨o, -, -, -, -, rfl⟩ := loadGrid_next h; exact .inr ⟨rfl, rfl⟩
  | setOrder order => exact .inr (ofSetOrder h)
  | writeCmd c => exact .inl ⟨c, h⟩
  | writeReg n value =>
    rcases writeRegister_next h with hcmd | ⟨v, rfl⟩ | rfl | horder
    · exact .inl ⟨_, hcmd⟩
    · exact .inr ⟨rfl, rfl⟩
    · exact .inr ⟨rfl, rfl⟩
    · exact .inr (ofSetOrder horder)
  | readReg n k => obtain ⟨v, rfl⟩ := readRegister_next h; exact .inr ⟨rfl, rfl⟩
  | readMem a => obtain ⟨v, -, rfl⟩ := readMemory_next h; exact .inr ⟨rfl, rfl⟩
  | reset => exact absurd rfl hreset

theorem hostTransaction_keeps_fault {tr : HostTransaction} {s t : State}
    (h : hostTransaction tr s = .next t) (hreset : tr ≠ .reset) (hs : s.fault = true) :
    t.fault = true := by
  rcases hostTransaction_frame h hreset with ⟨c, hc⟩ | ⟨hfault, -⟩
  · exact runCommand_keeps_fault hc hs
  · exact hfault.trans hs

theorem hostTransaction_script {tr : HostTransaction} {s t : State}
    (h : hostTransaction tr s = .next t) (hreset : tr ≠ .reset) : t.script = s.script := by
  rcases hostTransaction_frame h hreset with ⟨c, hc⟩ | ⟨-, hscript⟩
  · exact runCommand_script hc
  · exact hscript

/-! ## Steps and runs -/

/-- A step that clears FAULT performs a reset. -/
theorem step_clears_fault {s t : State} (h : step s = .next t) (hs : s.fault = true)
    (ht : t.fault = false) : ∃ rest, s.script = .reset :: rest := by
  cases hscript : s.script with
  | nil =>
    obtain rfl := Host.Outcome.next.inj ((step_idle hscript).symm.trans h)
    simp [hs] at ht
  | cons tr rest =>
    by_cases hreset : tr = .reset
    · exact ⟨rest, by rw [hreset]⟩
    · rw [step_of_script hscript] at h
      simp [hostTransaction_keeps_fault h hreset hs] at ht

/-- A step performs at most the first transaction of the script. -/
theorem step_script_subset {s t : State} (h : step s = .next t) (hs : .reset ∉ s.script) :
    t.script ⊆ s.script := by
  cases hscript : s.script with
  | nil =>
    obtain rfl := Host.Outcome.next.inj ((step_idle hscript).symm.trans h)
    simp [hscript]
  | cons tr rest =>
    have hreset : tr ≠ .reset := by rintro rfl; simp [hscript] at hs
    rw [step_of_script hscript] at h
    simp [hostTransaction_script h hreset]

/-- Settles O46. -/
theorem onlyResetClearsFault : Obligations.OnlyResetClearsFault :=
  ⟨fun _ _ _ h => (runCommand_fault_report h).1, fun _ _ h => step_clears_fault h,
    fun _ _ h => Host.Outcome.next.inj h ▸ rfl⟩

/-- A run goes on exactly when its first step and the run from there do. -/
theorem runSteps_succ {k : Nat} {s t : State} :
    runSteps (k + 1) s = some t ↔ ∃ u, step s = .next u ∧ runSteps k u = some t := by
  rw [runSteps]
  cases step s <;> simp [nextState]

/-- Settles O47, by induction on the number of steps: had the first state gone wrong, its step would
have kept FAULT, and the induction hypothesis finds the next state clean. -/
theorem cleanEndMeansCleanRun : Obligations.CleanEndMeansCleanRun := by
  intro k
  induction k with
  | zero =>
    intro s t h _ hclean j hj
    obtain rfl := Nat.le_zero.1 hj
    exact ⟨t, h, hclean⟩
  | succ k ih =>
    intro s t h hreset hclean j hj
    obtain ⟨u, hstep, hrun⟩ := runSteps_succ.1 h
    have clean := ih u t hrun (fun hu => hreset (step_script_subset hstep hreset hu)) hclean
    cases j with
    | zero =>
      obtain ⟨_, ⟨⟩, hu⟩ := clean 0 (Nat.zero_le k)
      refine ⟨s, rfl, eq_false_of_ne_true fun hs => ?_⟩
      obtain ⟨rest, hscript⟩ := step_clears_fault hstep hs hu
      simp [hscript] at hreset
    | succ j =>
      obtain ⟨w, hw, hwclean⟩ := clean j (Nat.le_of_succ_le_succ hj)
      exact ⟨w, runSteps_succ.2 ⟨u, hstep, hw⟩, hwclean⟩

end Sys2Proof.Machine
end

section
/-! PROOFS. The registers by number (10_state.md R22, R26, R33, R34): which hold a value, and what a
host access to each answers. -/

namespace Sys2Proof.Machine

/-! ## Numbers and registers -/

/-- The number R26 gives a register. -/
def Reg.number : Reg → Nat
  | .cmd => 0x00
  | .status => 0x01
  | .err => 0x02
  | .errDim => 0x03
  | .errVal => 0x04
  | .variant => 0x08
  | .mode => 0x09
  | .fileLen => 0x0A
  | .blockBase => 0x10
  | .blockSize => 0x11
  | .hdrName => 0x20
  | .hdrWidth => 0x21
  | .hdrHeight => 0x22
  | .hdrPadRight => 0x23
  | .hdrPadDown => 0x24
  | .hdrRsvd => 0x25
  | .hdrTransform => 0x26
  | .hdrFormat => 0x27
  | .hdrCfaCode => 0x28
  | .hdrBitFormat => 0x29
  | .hdrOrder => 0x2A
  | .gridH => 0x40
  | .gridW => 0x41
  | .gridOrder => 0x42
  | .ch3H => 0x50
  | .ch3W => 0x51
  | .rgbH => 0x60
  | .rgbW => 0x61

/-- A register has one number and a number at most one register. -/
theorem regOfNumber_eq_some_iff {n : Nat} {r : Reg} : regOfNumber n = some r ↔ r.number = n := by
  constructor
  · intro h
    unfold regOfNumber at h
    split at h <;> cases h <;> rfl
  · rintro rfl
    cases r <;> rfl

/-- The numbers that name a register are those R26 lists. -/
theorem regOfNumber_eq_none_iff {n : Nat} : regOfNumber n = none ↔ n ∉ listedNumbers := by
  constructor
  · intro h hn
    have named : ∀ n ∈ listedNumbers, regOfNumber n ≠ none := by decide
    exact named n hn h
  · intro h
    refine Option.eq_none_iff_forall_ne_some.2 fun r hr => h ?_
    rw [← regOfNumber_eq_some_iff.1 hr]
    cases r <;> decide

/-! ## H_READ -/

theorem readsReg_of_value {n k v : Nat} {r : Reg} {s : State} (hn : regOfNumber n = some r)
    (hk : k < regElements r) (hv : regValue s k r = some v) : readsReg s n k v :=
  readRegister_of_value hn hk hv

theorem refusesReg_of_noValue {s : State} {n k : Nat}
    (h : ∀ r, regOfNumber n = some r → regValue s k r = none) : refusesReg s n k :=
  readRegister_of_none h

theorem refusesReg_of_index {s : State} {n k : Nat}
    (h : ∀ r, regOfNumber n = some r → regElements r ≤ k) : refusesReg s n k :=
  readRegister_of_index h

/-- The registers of an absent product are refused, whatever the index. -/
theorem refusesReg_of_mem {s : State} {k : Nat} {numbers : List Nat}
    (h : ∀ n ∈ numbers, ∀ r, regOfNumber n = some r → regValue s k r = none) :
    ∀ n ∈ numbers, refusesReg s n k :=
  fun n hn => refusesReg_of_noValue (h n hn)

theorem refusesReg_block {s : State} (h : s.block = none) (k : Nat) :
    ∀ n ∈ [0x10, 0x11], refusesReg s n k :=
  refusesReg_of_mem (by simp [regOfNumber, regValue, h])

theorem refusesReg_hdr {s : State} (h : s.hdr = none) (k : Nat) :
    ∀ n ∈ headerNumbers, refusesReg s n k :=
  refusesReg_of_mem (by simp [headerNumbers, regOfNumber, regValue, h])

theorem refusesReg_grid {s : State} (h : s.grid = none) (k : Nat) :
    ∀ n ∈ [0x40, 0x41, 0x42], refusesReg s n k :=
  refusesReg_of_mem (by simp [regOfNumber, regValue, h])

theorem refusesReg_ch3 {s : State} (h : s.ch3 = none) (k : Nat) :
    ∀ n ∈ [0x50, 0x51], refusesReg s n k :=
  refusesReg_of_mem (by simp [regOfNumber, regValue, h])

theorem refusesReg_rgb {s : State} (h : s.rgb = none) (k : Nat) :
    ∀ n ∈ [0x60, 0x61], refusesReg s n k :=
  refusesReg_of_mem (by simp [regOfNumber, regValue, h])

theorem refusesMem_grid {s : State} (h : s.grid = none) (r c : Nat) : refusesMem s (.grid r c) :=
  readMemory_of_none (by simp [memValue, gridElem, h])

theorem refusesMem_rgb {s : State} (h : s.rgb = none) (r c k : Nat) : refusesMem s (.rgb r c k) :=
  readMemory_of_none (by simp [memValue, rgbElem, h])

/-- Only the two arrays have an element past index 0. -/
theorem regElements_le {n k : Nat} (hk : 1 ≤ k) (hn : n ∉ [0x20, 0x25]) :
    ∀ r, regOfNumber n = some r → regElements r ≤ k := by
  intro r hr
  obtain rfl := regOfNumber_eq_some_iff.1 hr
  cases r with
  | hdrName => simp [Reg.number] at hn
  | hdrRsvd => simp [Reg.number] at hn
  | _ => exact hk

/-- After reset only STATUS and the error registers, numbers 1 to 4, hold a value (R34). -/
theorem regValue_reset {n : Nat} (k : Nat) (hn : n = 0 ∨ 5 ≤ n) :
    ∀ r, regOfNumber n = some r → regValue State.reset k r = none := by
  intro r hr
  obtain rfl := regOfNumber_eq_some_iff.1 hr
  cases r with
  | status => simp [Reg.number] at hn
  | err => simp [Reg.number] at hn
  | errDim => simp [Reg.number] at hn
  | errVal => simp [Reg.number] at hn
  | _ => rfl

/-- Settles O54: a number is refused that names no register, whose register holds no value, or whose
register has no element at the index. -/
theorem readsOfNoValueAreRefused : Obligations.ReadsOfNoValueAreRefused := by
  refine ⟨fun s => ⟨fun n h1 h4 => ?_, fun k => ⟨?_, fun n hn => ?_, fun h => ?_, fun h => ?_,
    fun h => ?_, fun h => refusesReg_block h k, fun h => refusesReg_hdr h k,
    fun h => refusesReg_grid h k, fun h => refusesReg_ch3 h k, fun h => refusesReg_rgb h k,
    fun hk n hn => refusesReg_of_index (regElements_le hk hn), fun hk => ?_, fun hk => ?_⟩⟩,
    fun n k hn => refusesReg_of_noValue (regValue_reset k hn), fun a => by cases a <;> rfl⟩
  · interval_cases n
    · exact ⟨_, readsReg_of_value rfl Nat.one_pos rfl⟩
    · exact ⟨_, readsReg_of_value rfl Nat.one_pos rfl⟩
    · exact ⟨_, readsReg_of_value rfl Nat.one_pos rfl⟩
    · exact ⟨_, readsReg_of_value rfl Nat.one_pos rfl⟩
  · exact ⟨_, rfl⟩
  · exact refusesReg_of_noValue (by simp [regOfNumber_eq_none_iff.2 hn])
  · exact refusesReg_of_noValue (by simp [regOfNumber, regValue, h])
  · exact refusesReg_of_noValue (by simp [regOfNumber, regValue, h])
  · exact refusesReg_of_noValue (by simp [regOfNumber, regValue, h])
  · exact refusesReg_of_index (by simpa [regOfNumber, regElements] using hk)
  · exact refusesReg_of_index (by simpa [regOfNumber, regElements] using hk)

/-- Settles O58: the clears of a failed body leave nothing to read. -/
theorem failedProductsCannotBeRead : Obligations.FailedProductsCannotBeRead := by
  intro s t hok hseq
  have refusesLocated {s : State} (hb : s.block = none) (hh : s.hdr = none) (k : Nat) :
      ∀ n ∈ [0x10, 0x11] ++ headerNumbers, refusesReg s n k :=
    List.forall_mem_append.2 ⟨refusesReg_block hb k, refusesReg_hdr hh k⟩
  refine ⟨fun h => ?_, fun h => ?_, fun h => ?_, fun h => ?_, fun h => ?_⟩ <;>
    obtain ⟨c, s', hends, rfl⟩ := exec_failed h hok hseq
  · obtain ⟨-, hblock, hhdr⟩ := hends.locate_failed
    exact refusesLocated hblock hhdr
  · exact refusesReg_hdr hends.parse_failed.2
  · have hgrid := hends.unpack_failed.2
    exact ⟨refusesReg_grid hgrid, refusesMem_grid hgrid⟩
  · have hrgb := hends.torgb_failed.2
    exact ⟨refusesReg_rgb hrgb, refusesMem_rgb hrgb⟩
  · rcases hends.decode_failed with
      ⟨hc, hblock, hhdr⟩ | ⟨rfl, hhdr⟩ | ⟨hc, hgrid⟩
    · refine ⟨fun _ => refusesLocated hblock hhdr, fun _ => refusesReg_hdr hhdr, fun herr => ?_⟩
      rcases hc with rfl | rfl | rfl <;> simp [causeCode] at herr
    · refine ⟨fun herr => ?_, fun _ => refusesReg_hdr hhdr, fun herr => ?_⟩ <;>
        simp [causeCode] at herr
    · refine ⟨fun herr => ?_, fun herr => ?_,
        fun _ => ⟨refusesReg_grid hgrid, refusesMem_grid hgrid⟩⟩ <;>
        rcases hc with rfl | rfl <;> simp [causeCode] at herr

theorem readsReg_hdr {s : State} {h : RawHeader} (hs : s.hdr = some h) :
    (∀ i : Fin 32, readsReg s 0x20 i h.name[i].toNat) ∧
    readsReg s 0x21 0 h.width.toNat ∧ readsReg s 0x22 0 h.height.toNat ∧
    readsReg s 0x23 0 h.padRight.toNat ∧ readsReg s 0x24 0 h.padDown.toNat ∧
    (∀ i : Fin 24, readsReg s 0x25 i h.rsvd[i].toNat) ∧
    readsReg s 0x26 0 h.transform.toNat ∧ readsReg s 0x27 0 h.format.toNat ∧
    readsReg s 0x28 0 h.cfaCode.toNat ∧ readsReg s 0x29 0 h.bitFormat.toNat ∧
    readsReg s 0x2A 0 (orderCode h.order).toNat := by
  refine ⟨fun i => readsReg_of_value (r := .hdrName) rfl i.isLt (by simp [regValue, hs]),
    ?_, ?_, ?_, ?_,
    fun i => readsReg_of_value (r := .hdrRsvd) rfl i.isLt (by simp [regValue, hs]),
    ?_, ?_, ?_, ?_, ?_⟩ <;>
    exact readsReg_of_value rfl Nat.one_pos (by simp only [regValue, hs, Option.map_some])

/-- Settles O53. -/
theorem registersReadByNumber : Obligations.RegistersReadByNumber := by
  intro s
  have reads {n v : Nat} {r : Reg} (hn : regOfNumber n = some r) (hk : regElements r = 1)
      (hv : regValue s 0 r = some v) : readsReg s n 0 v :=
    readsReg_of_value hn (hk ▸ Nat.one_pos) hv
  refine ⟨reads rfl rfl rfl, reads rfl rfl rfl, reads rfl rfl rfl, reads rfl rfl rfl,
    fun v h => reads rfl rfl ?_, fun m h => reads rfl rfl ?_, fun f h => reads rfl rfl ?_,
    fun b h => ⟨reads rfl rfl ?_, reads rfl rfl ?_⟩, fun hd h => readsReg_hdr h,
    fun g h => ⟨reads rfl rfl ?_, reads rfl rfl ?_, reads rfl rfl ?_⟩,
    fun x h => ⟨reads rfl rfl ?_, reads rfl rfl ?_⟩,
    fun y h => ⟨reads rfl rfl ?_, reads rfl rfl ?_⟩⟩ <;>
    simp only [regValue, h, Option.map_some]

/-! ## STATUS -/

/-- Settles O55: STATUS is eight one-bit words appended, so each bit is found by the word it falls
in. -/
theorem statusBitsAreTheFlags : Obligations.StatusBitsAreTheFlags := by
  intro s
  refine ⟨?_, ?_, ?_, ?_, ?_, ?_, ?_, ?_⟩ <;>
    simp only [status, fileValid, blockValid, hdrValid, gridValid, ch3Valid, rgbValid,
      BitVec.getLsbD_append] <;>
    simp

/-! ## Register writes -/

theorem writeRegister_reserved {n : Nat} (hn : n ∉ listedNumbers) (value : Nat) (s : State) :
    writeRegister n value s = .refused .reservedRegister := by
  rw [writeRegister, regOfNumber_eq_none_iff.2 hn]

theorem writeRegister_readOnly {n : Nat} (hn : n ∈ listedNumbers)
    (hro : n ∉ [0x00, 0x08, 0x09, 0x42]) (value : Nat) (s : State) :
    writeRegister n value s = .refused .writeOfReadOnly := by
  cases hr : regOfNumber n with
  | none => exact absurd hn (regOfNumber_eq_none_iff.1 hr)
  | some r =>
    rw [writeRegister, hr]
    obtain rfl := regOfNumber_eq_some_iff.1 hr
    cases r with
    | cmd => simp [Reg.number] at hro
    | variant => simp [Reg.number] at hro
    | mode => simp [Reg.number] at hro
    | gridOrder => simp [Reg.number] at hro
    | _ => rfl

/-- A byte written to register number 0 is written to CMD (R26, R76). -/
theorem writeRegister_cmd {value : Nat} (h : value < 256) (s : State) :
    writeRegister 0x00 value s = runCommand (BitVec.ofNat 8 value) s := if_pos h

theorem writeRegister_cmd_tooWide {value : Nat} (h : 256 ≤ value) (s : State) :
    writeRegister 0x00 value s = .refused .valueTooWide := if_neg (Nat.not_lt.2 h)

theorem writeRegister_mode_tooWide {value : Nat} (h : 256 ≤ value) (s : State) :
    writeRegister 0x09 value s = .refused .valueTooWide := if_neg (Nat.not_lt.2 h)

theorem writeRegister_variant_tooWide {value : Nat} (h : 2 ≤ value) (s : State) :
    writeRegister 0x08 value s = .refused .valueTooWide := by
  obtain ⟨v, rfl⟩ := Nat.exists_eq_add_of_le' h
  rfl

/-- Settles O57. -/
theorem otherRegisterWritesAreRefused : Obligations.OtherRegisterWritesAreRefused := by
  intro s n value
  refine ⟨fun hn => writeRegister_reserved hn value s,
    fun hn hro => writeRegister_readOnly hn hro value s, fun hn hv => ?_, fun hn hv => ?_⟩
  · rcases List.mem_pair.1 hn with rfl | rfl
    · exact writeRegister_cmd_tooWide hv s
    · exact writeRegister_mode_tooWide hv s
  · exact hn ▸ writeRegister_variant_tooWide hv s

/-! ## CMD -/

/-- A command's byte runs the command, and what it reports is the reply (R140, R147). -/
theorem runCommand_of_decode {c : Byte} {i : Instr} (h : decode c = .ok i) (s : State) :
    runCommand c s = mapNext commandReturn (exec i s) := by
  cases hx : exec i s <;> simp only [runCommand, h, hx, mapNext]

/-- Settles O4. -/
theorem stepRunsTheDecodedCommand : Obligations.StepRunsTheDecodedCommand := fun _ _ _ _ hs hc =>
  (step_of_script hs).trans (runCommand_of_decode hc _)

/-- Settles O5. -/
theorem registerZeroIsTheCommandPort : Obligations.RegisterZeroIsTheCommandPort :=
  fun _ _ _ h => writeRegister_cmd h _

/-! ## Reset -/

/-- Settles O7: without a file LOCATE and DECODE are out of sequence. -/
theorem resetLeavesNothingValid : Obligations.ResetLeavesNothingValid := by
  refine ⟨rfl, rfl, rfl, rfl, rfl, rfl, rfl, rfl, rfl, rfl, rfl, rfl, fun i hi => ?_⟩
  rcases List.mem_pair.1 hi with rfl | rfl <;> rfl

end Sys2Proof.Machine
end

section
/-! PROOFS. What the commands read of FILE (20_memory.md R41): a body begun in the same state with
another file of the same length, with the same bytes where the body reads, ends in the same way
beside holding that file. -/

namespace Sys2Proof.Machine

/-! ## The same state with another file -/

/-- The state with `f` for its file. -/
def State.holding (f : FileImage) (s : State) : State := { s with file := some f }

@[simp] theorem State.holding_file (f : FileImage) (s : State) : (s.holding f).file = some f := rfl

@[simp] theorem State.holding_variant (f : FileImage) (s : State) :
    (s.holding f).variant = s.variant := rfl

@[simp] theorem State.holding_mode (f : FileImage) (s : State) : (s.holding f).mode = s.mode := rfl

@[simp] theorem State.holding_block (f : FileImage) (s : State) :
    (s.holding f).block = s.block := rfl

@[simp] theorem State.holding_hdr (f : FileImage) (s : State) : (s.holding f).hdr = s.hdr := rfl

/-- The end of a stage with `f` for its state's file. -/
def Stage.holding {α : Type} (f : FileImage) : Stage α → Stage α
  | .done a s => .done a (s.holding f)
  | .raised c s => .raised c (s.holding f)
  | .stuck e => .stuck e

/-- The report of a command does not look at FILE. -/
theorem finish_holding {α : Type} (f : FileImage) (x : Stage α) :
    finish (x.holding f) = mapNext (State.holding f) (finish x) := by
  cases x <;> rfl

theorem outOfSequence_holding (f : FileImage) (s : State) :
    outOfSequence (s.holding f) = mapNext (State.holding f) (outOfSequence s) := rfl

/-- If what follows a success does not see the exchange of the file, the composition does not. -/
theorem andThen_holding {α β : Type} {f : FileImage} {x : Stage α} {k : α → State → Stage β}
    (hk : ∀ a s, x = .done a s → k a (s.holding f) = (k a s).holding f) :
    andThen (x.holding f) k = (andThen x k).holding f := by
  cases x with
  | done a s => exact hk a s rfl
  | raised c s => rfl
  | stuck e => rfl

theorem blockInFile_of_len_eq {f f' : FileImage} (hlen : f'.len = f.len) (b : Block) (n : Nat) :
    blockInFile f' b n = blockInFile f b n := by
  rw [blockInFile, blockInFile, hlen]

/-! ## LOCATE reads the marker -/

theorem locate_congr {table : Config.BlockSizeTable} {f f' : FileImage} {v : Variant} {m : Byte}
    (hlen : f'.len = f.len)
    (hmarker : ∀ size, blockSize table v m = some size → ∀ k < 4,
      blockByte f' ⟨f.len - size, size⟩ k = blockByte f ⟨f.len - size, size⟩ k) :
    locate table f' v m = locate table f v m := by
  cases hsize : blockSize table v m with
  | none => simp only [locate, hsize]
  | some size =>
    have hbytes : (List.range 4).map (blockByte f' ⟨f.len - size, size⟩) =
        (List.range 4).map (blockByte f ⟨f.len - size, size⟩) :=
      List.map_congr_left fun k hk => hmarker size hsize k (List.mem_range.1 hk)
    simp only [locate, hsize, hlen, hbytes]

theorem locateBody_holding {table : Config.BlockSizeTable} {f f' : FileImage} {v : Variant}
    {m : Byte} (s : State) (hloc : locate table f' v m = locate table f v m) :
    locateBody table f' v m (s.holding f') = (locateBody table f v m s).holding f' := by
  rcases locateBody_cases table f v m s with ⟨b, hl, hx⟩ | ⟨c, hl, hx⟩ <;>
    rw [hx, locateBody, hloc, hl] <;> rfl

/-! ## PARSE reads the header -/

theorem byteArray_congr {bytes bytes' : Nat → Byte} {o n : Nat}
    (h : ∀ i < n, bytes' (o + i) = bytes (o + i)) : byteArray bytes' o n = byteArray bytes o n := by
  have hmap : ((List.range n).map fun i => bytes' (o + i)) =
      (List.range n).map fun i => bytes (o + i) :=
    List.map_congr_left fun i hi => h i (List.mem_range.1 hi)
  simp only [byteArray, hmap]

theorem parseHeader_congr {bytes bytes' : Nat → Byte}
    (h : ∀ k, 176 ≤ k → k < 246 → bytes' k = bytes k) : parseHeader bytes' = parseHeader bytes := by
  have hname : byteArray bytes' headerOffset 32 = byteArray bytes headerOffset 32 :=
    byteArray_congr fun i hi => h _ (by simp only [headerOffset]; omega)
      (by simp only [headerOffset]; omega)
  have hrsvd : byteArray bytes' (headerOffset + 40) 24 = byteArray bytes (headerOffset + 40) 24 :=
    byteArray_congr fun i hi => h _ (by simp only [headerOffset]; omega)
      (by simp only [headerOffset]; omega)
  simp (disch := decide) only [parseHeader, headerFields, field16, hname, hrsvd, h]

theorem parseBody_holding {b : Block} {f f' : FileImage} {s : State} (hf : s.file = some f)
    (hlen : f'.len = f.len)
    (hheader : ∀ k, 176 ≤ k → k < 246 → blockByte f' b k = blockByte f b k) :
    parseBody b (s.holding f') = (parseBody b s).holding f' := by
  simp only [parseBody, State.holding, hf, blockInFile_of_len_eq hlen, parseHeader_congr hheader]
  split
  · cases parseHeader (blockByte f b) <;> rfl
  · rfl

/-! ## UNPACK reads the active bytes -/

theorem tabulate_congr {α : Type} {h w : Nat} {f g : Nat → Nat → α}
    (hfg : ∀ r c, r < h → c < w → f r c = g r c) : tabulate h w f = tabulate h w g :=
  List.flatMap_congr fun r hr => List.map_congr_left fun c hc =>
    hfg r c (List.mem_range.1 hr) (List.mem_range.1 hc)

theorem groupAt_congr {bytes bytes' : Nat → Byte} {o : Nat}
    (h : ∀ i < 5, bytes' (o + i) = bytes (o + i)) : groupAt bytes' o = groupAt bytes o := by
  simp (disch := decide) only [groupAt, h, show bytes' o = bytes o from h 0 (by decide)]

/-- In a row of whole groups, the five bytes of a sample's group are among the crop bytes (R103,
R106). -/
theorem group_lt_cropBytes {h : RawHeader} (hwhole : cropBytes h % 5 = 0) {c i : Nat}
    (hc : c < h.width.toNat) (hi : i < 5) : 5 * (c / 4) + i < cropBytes h := by
  simp only [cropBytes, cropOf] at hwhole ⊢
  omega

theorem unpackGrid_congr {bytes bytes' : Nat → Byte} {h : RawHeader}
    (hwhole : cropBytes h % 5 = 0)
    (hactive : ∀ r j, r < h.height.toNat → j < cropBytes h →
      bytes' (32768 + r * byteRowWidth h + j) = bytes (32768 + r * byteRowWidth h + j)) :
    unpackGrid bytes' h = unpackGrid bytes h := by
  have hsamples : tabulate h.height.toNat h.width.toNat (sampleAt bytes' (byteRowWidth h)) =
      tabulate h.height.toNat h.width.toNat (sampleAt bytes (byteRowWidth h)) := by
    refine tabulate_congr fun r c hr hc => ?_
    rw [sampleAt, sampleAt, groupAt_congr fun i hi => ?_]
    simpa only [pixelOffset, Nat.add_assoc] using hactive r _ hr (group_lt_cropBytes hwhole hc hi)
  simp only [unpackGrid, hsamples]

theorem unpackBody_holding {b : Block} {h : RawHeader} {f f' : FileImage} {s : State}
    (hf : s.file = some f) (hlen : f'.len = f.len)
    (hactive : ∀ r j, r < h.height.toNat → j < cropBytes h →
      blockByte f' b (32768 + r * byteRowWidth h + j) =
        blockByte f b (32768 + r * byteRowWidth h + j)) :
    unpackBody b h (s.holding f') = (unpackBody b h s).holding f' := by
  simp only [unpackBody, State.holding, hf, blockInFile_of_len_eq hlen]
  split
  · rfl
  · split
    · rfl
    · next hwhole =>
      rw [unpackGrid_congr (not_not.1 hwhole) hactive]
      split <;> rfl

/-- Settles O25: the size checks read no byte, and the samples are made of crop bytes only. -/
theorem unpackIgnoresInactiveBytes : Obligations.UnpackIgnoresInactiveBytes := by
  intro s b h f f' hb hh hf hlen hactive
  calc exec .unpack (s.holding f')
      = finish (unpackBody b h (s.holding f')) := by
        simp only [exec, execUnpack, State.holding_block, State.holding_hdr, hb, hh]
    _ = mapNext (State.holding f') (finish (unpackBody b h s)) := by
        rw [unpackBody_holding hf hlen hactive, finish_holding]
    _ = mapNext (State.holding f') (exec .unpack s) := by
        simp only [exec, execUnpack, hb, hh]

/-! ## DECODE reads the three -/

/-- LOCATE's body leaves the file, and the block that `locate` finds in it. -/
theorem locateBody_done {table : Config.BlockSizeTable} {f : FileImage} {v : Variant} {m : Byte}
    {s s' : State} {b : Block} (h : locateBody table f v m s = .done b s') :
    locate table f v m = .ok b ∧ s'.file = s.file := by
  rcases locateBody_cases table f v m s with ⟨b', hl, hx⟩ | ⟨c, -, hx⟩
  · obtain ⟨rfl, rfl⟩ := Stage.done.inj (h.symm.trans hx)
    exact ⟨hl, rfl⟩
  · cases h.symm.trans hx

/-- PARSE's body makes the header of the block's own bytes. -/
theorem parseBody_done {b : Block} {f : FileImage} {s s' : State} {hd : RawHeader}
    (hf : s.file = some f) (h : parseBody b s = .done hd s') :
    ∃ o, hd = headerFields (blockByte f b) o := by
  rcases parseBody_cases b s with ⟨f₁, o, hf₁, -, -, hx⟩ | ⟨f₁, -, -, -, hx⟩ | ⟨-, hx⟩
  · obtain rfl := Option.some.inj (hf.symm.trans hf₁)
    exact ⟨o, (Stage.done.inj (h.symm.trans hx)).1⟩
  · cases h.symm.trans hx
  · cases h.symm.trans hx

/-- What DECODE reads of the block it locates: the marker, the header, and the active bytes that the
header in the block names. The header's order plays no part in it. -/
theorem decodeBody_holding {table : Config.BlockSizeTable} {f f' : FileImage} {v : Variant}
    {m : Byte} {s : State} (hf : s.file = some f) (hlen : f'.len = f.len)
    (hread : ∀ size k, blockSize table v m = some size →
      readOfBlock (headerFields (blockByte f ⟨f.len - size, size⟩) .rggb) k →
        blockByte f' ⟨f.len - size, size⟩ k = blockByte f ⟨f.len - size, size⟩ k) :
    decodeBody table f' v m (s.holding f') = (decodeBody table f v m s).holding f' := by
  have hlocate : locate table f' v m = locate table f v m :=
    locate_congr hlen fun size hsize k hk => hread size k hsize (.inl hk)
  rw [decodeBody, locateBody_holding s hlocate]
  refine andThen_holding fun b s₁ hlocated => ?_
  obtain ⟨hloc, hkept⟩ := locateBody_done hlocated
  obtain ⟨hsize, -, hbase, -⟩ := locate_ok hloc
  have hf₁ : s₁.file = some f := hkept.trans hf
  have hblock (k : Nat) (hk : readOfBlock (headerFields (blockByte f b) .rggb) k) :
      blockByte f' b k = blockByte f b k := by
    obtain ⟨base, size⟩ := b
    obtain rfl : base = f.len - size := hbase
    exact hread size k hsize hk
  rw [parseBody_holding hf₁ hlen fun k hlo hhi => hblock k (.inr (.inl ⟨hlo, hhi⟩))]
  refine andThen_holding fun h s₂ hparsed => ?_
  obtain ⟨o, rfl⟩ := parseBody_done hf₁ hparsed
  exact unpackBody_holding ((parseBody_done_file hparsed).trans hf₁) hlen fun r j hr hj =>
    hblock _ (.inr (.inr ⟨r, j, hr, hj, rfl⟩))

/-- Settles O36: with a parameter missing DECODE reads nothing, and else what its body reads. -/
theorem decodeIgnoresUnreadBytes : Obligations.DecodeIgnoresUnreadBytes := by
  intro s f f' hf hlen hread
  have hdecode (s : State) : exec .decode s = decodeWith blockSizeTable s := rfl
  change exec .decode (s.holding f') = mapNext (State.holding f') (exec .decode s)
  rw [hdecode, hdecode, decodeWith, decodeWith, hf, State.holding_file, State.holding_variant,
    State.holding_mode]
  cases hv : s.variant with
  | none => exact outOfSequence_holding f' s
  | some v =>
    cases hm : s.mode with
    | none => exact outOfSequence_holding f' s
    | some m =>
      have hbody := decodeBody_holding (v := v) (m := m) hf hlen fun size k =>
        hread v m size k hv hm
      exact (congrArg finish hbody).trans (finish_holding f' _)

end Sys2Proof.Machine
end

section
/-! PROOFS. The ChannelImage that TO3D makes (43_bayer_mapper.md R121): a pixel's sample stands in
one channel. -/

namespace Sys2Proof.Machine

/-- An element that a ChannelImage made of a grid answers is the element of R121. -/
theorem ch3Elem_of_to3dImage {s : State} {g : Grid} {r c k : Nat} {v : U16}
    (hs : s.ch3 = some (to3dImage g)) (h : ch3Elem s r c k = some v) : v = ch3At g r c k := by
  rw [ch3Elem, hs, Option.bind_some, Option.ite_none_right_eq_some] at h
  obtain ⟨⟨hr, hc, hk⟩, helem⟩ := h
  exact Option.some.inj (helem.symm.trans (getElem?_tabulate3 (ch3At g) hr hc hk))

/-- The channels other than the position's own are 0. -/
theorem ch3At_of_ne_chan {g : Grid} {r c k : Nat} (h : k ≠ chan g.order r c) :
    ch3At g r c k = 0 := if_neg h

/-- A TO3D that succeeds leaves the image of a grid. -/
theorem to3d_ch3 {s t : State} (h : exec .to3d s = .next t) (hok : t.err = 0x00) :
    ∃ g, t.ch3 = some (to3dImage g) := by
  rcases exec_next h with rfl | ⟨o, s', hends, rfl⟩
  · cases hok
  · cases hends with
    | makesCh3 g => exact ⟨g, rfl⟩

/-- Settles O28: of two channels one is not the position's own. -/
theorem to3dLeavesOneChannelPerPixel : Obligations.To3dLeavesOneChannelPerPixel := by
  intro s t h hok r c k k' v v' hv hv' hne
  obtain ⟨g, hg⟩ := to3d_ch3 h hok
  rw [ch3Elem_of_to3dImage hg hv, ch3Elem_of_to3dImage hg hv']
  rcases eq_or_ne k (chan g.order r c) with rfl | hk
  · exact .inr (ch3At_of_ne_chan hne.symm)
  · exact .inl (ch3At_of_ne_chan hk)

end Sys2Proof.Machine
end

section
/-! PROOFS. The command byte (30_encoding.md R71 to R73): the bytes that decode are the six
encodings, and any other byte written to CMD only reports. -/

namespace Sys2Proof

/-! ## Fields and operations -/

/-- A byte is its `zero` field over its `op` field (R71). -/
theorem zeroField_append_opField (c : Byte) : zeroField c ++ opField c = c :=
  (BitVec.extractLsb'_append_extractLsb'_eq_extractLsb' rfl).trans BitVec.extractLsb'_eq_self

theorem cmdFormat (i : Instr) : Laws.CmdFormat.Statement i := by
  cases i with
  | locate => exact Laws.CmdFormat.locate
  | parse => exact Laws.CmdFormat.parse
  | unpack => exact Laws.CmdFormat.unpack
  | to3d => exact Laws.CmdFormat.to3d
  | torgb => exact Laws.CmdFormat.torgb
  | decode => exact Laws.CmdFormat.decode

@[simp] theorem opInstr_opOf (i : Instr) : opInstr (opOf i) = .ok i := by
  cases i <;> rfl

/-- An operation that names a command is that command's own. -/
theorem opOf_of_opInstr {op : BitVec 3} {i : Instr} (h : opInstr op = .ok i) : opOf i = op := by
  unfold opInstr at h
  split at h <;> cases h <;> exact BitVec.eq_of_toNat_eq (Eq.symm ‹_›)

/-! ## Decoder and encoder -/

theorem decode_encode (i : Instr) : decode (encode i) = .ok i := by
  obtain ⟨-, hzero, hop, -⟩ := cmdFormat i
  rw [decode, if_pos hzero, hop, opInstr_opOf]

theorem encode_of_decode {c : Byte} {i : Instr} (h : decode c = .ok i) : encode i = c := by
  unfold decode at h
  split at h
  · next hzero =>
    calc encode i = 0#5 ++ opField c := by rw [encode, opOf_of_opInstr h]
      _ = zeroField c ++ opField c := congrArg (· ++ opField c) hzero.symm
      _ = c := zeroField_append_opField c
  · cases h

/-- Settles O2. -/
theorem decodeAndEncodeAgree : Obligations.DecodeAndEncodeAgree :=
  ⟨fun i _ => decode_encode i, fun _ _ => encode_of_decode⟩

/-- Settles O1: each byte of the table is its command's encoding. -/
theorem commandBytesDecodeAsTabled : Obligations.CommandBytesDecodeAsTabled :=
  ⟨decode_encode .locate, decode_encode .parse, decode_encode .unpack, decode_encode .to3d,
    decode_encode .torgb, decode_encode .decode⟩

/-! ## Illegal bytes -/

/-- The encodings are the bytes 1 to 6. -/
theorem encode_toNat_bounds (i : Instr) : 1 ≤ (encode i).toNat ∧ (encode i).toNat ≤ 6 := by
  cases i <;> decide

theorem exists_decode_of_bounds {c : Byte} (hlo : 1 ≤ c.toNat) (hhi : c.toNat ≤ 6) :
    ∃ i, decode c = .ok i := by
  have encodes (i : Instr) (h : c.toNat = (encode i).toNat) : ∃ i, decode c = .ok i :=
    ⟨i, BitVec.eq_of_toNat_eq h ▸ decode_encode i⟩
  have hcases : c.toNat = 1 ∨ c.toNat = 2 ∨ c.toNat = 3 ∨ c.toNat = 4 ∨ c.toNat = 5 ∨
      c.toNat = 6 := by omega
  rcases hcases with h | h | h | h | h | h
  · exact encodes .locate h
  · exact encodes .parse h
  · exact encodes .unpack h
  · exact encodes .to3d h
  · exact encodes .torgb h
  · exact encodes .decode h

/-- A byte outside 1 to 6 is no command. -/
theorem decode_error_of_outside {c : Byte} (h : c.toNat = 0 ∨ 7 ≤ c.toNat) :
    ∃ e, decode c = .error e := by
  cases hc : decode c with
  | error e => exact ⟨e, rfl⟩
  | ok i =>
    have hbounds := encode_toNat_bounds i
    rw [encode_of_decode hc] at hbounds
    omega

end Sys2Proof

namespace Sys2Proof.Machine

/-- A byte that is no command is reported when it is written to CMD (R73, R153). -/
theorem runCommand_of_illegal {c : Byte} {e : DecodeError} (h : decode c = .error e) (s : State) :
    runCommand c s = .next (commandReturn (raise .illegalCommand s)) := by
  simp only [runCommand, h]

/-- Settles O3. -/
theorem illegalBytesOnlyReport : Obligations.IllegalBytesOnlyReport := by
  refine ⟨fun _ => exists_decode_of_bounds, fun c s rest hs hc => ?_⟩
  obtain ⟨e, he⟩ := decode_error_of_outside hc
  exact (step_of_script hs).trans (runCommand_of_illegal he _)

end Sys2Proof.Machine
end

section
/-! PROOFS. Values put together from bytes: the 16-bit header field (30_encoding.md R64) and the
lanes of a 5-byte group (30_encoding.md R68, 42_sample_unpacker.md R107), as numbers. -/

namespace Sys2Proof.Machine

/-- A word shifted over a number that fits below it is a sum, if the shift loses no bit. -/
theorem toNat_shiftLeft_or {w k : Nat} {x y : BitVec w} (hx : x.toNat * 2 ^ k < 2 ^ w)
    (hy : y.toNat < 2 ^ k) : (x <<< k ||| y).toNat = 2 ^ k * x.toNat + y.toNat := by
  rw [BitVec.toNat_or, BitVec.toNat_shiftLeft, Nat.shiftLeft_eq, Nat.mod_eq_of_lt hx,
    Nat.mul_comm, ← Nat.two_pow_add_eq_or_of_lt hy]

/-- A byte shifted by at most eight bits keeps all its bits in 16. -/
theorem toNat_byte_shiftLeft_or {k : Nat} (hk : k ≤ 8) (b : Byte) {y : U16}
    (hy : y.toNat < 2 ^ k) : (b.setWidth 16 <<< k ||| y).toNat = 2 ^ k * b.toNat + y.toNat := by
  have hb : (b.setWidth 16).toNat = b.toNat := BitVec.toNat_setWidth_of_le (by decide)
  rw [toNat_shiftLeft_or _ hy, hb]
  calc (b.setWidth 16).toNat * 2 ^ k = b.toNat * 2 ^ k := by rw [hb]
    _ < 2 ^ 8 * 2 ^ k := Nat.mul_lt_mul_of_pos_right b.isLt (Nat.two_pow_pos k)
    _ ≤ 2 ^ 8 * 2 ^ 8 := Nat.mul_le_mul_left _ (Nat.pow_le_pow_right (by decide) hk)

/-! ## Header fields -/

/-- The low byte comes first (R8, R45). -/
theorem le16_toNat (b0 b1 : Byte) : (le16 b0 b1).toNat = b0.toNat + 256 * b1.toNat := by
  have hb : (b0.setWidth 16).toNat = b0.toNat := BitVec.toNat_setWidth_of_le (by decide)
  rw [le16, BitVec.or_comm, toNat_byte_shiftLeft_or le_rfl b1 (hb ▸ b0.isLt), hb, Nat.add_comm]
  rfl

theorem field16_toNat (bytes : Nat → Byte) (o : Nat) :
    (field16 bytes o).toNat = (bytes o).toNat + 256 * (bytes (o + 1)).toNat :=
  le16_toNat _ _

@[simp] theorem getElem_byteArray (bytes : Nat → Byte) (o n : Nat) (i : Fin n) :
    (byteArray bytes o n)[i] = bytes (o + i) := by
  simp [byteArray]

/-! ## Lanes -/

/-- Lane `i` takes the pair of `b4` that has `3 - i` pairs below it (R68, R107). -/
theorem laneSample_toNat (b b4 : Byte) (i : Nat) :
    (laneSample b b4 i).toNat = 4 * b.toNat + b4.toNat / 2 ^ (2 * (3 - i)) % 4 := by
  have hpair : (((b4 >>> (2 * (3 - i))) &&& 0b11).setWidth 16 : U16).toNat =
      b4.toNat / 2 ^ (2 * (3 - i)) % 4 := by
    rw [BitVec.toNat_setWidth_of_le (by decide), BitVec.toNat_and, BitVec.toNat_ushiftRight,
      Nat.shiftRight_eq_div_pow]
    exact Nat.and_two_pow_sub_one_eq_mod _ 2
  have hlow := hpair.trans_lt (Nat.mod_lt _ (by decide))
  exact (toNat_byte_shiftLeft_or (by decide) b hlow).trans (congrArg (4 * b.toNat + ·) hpair)

/-- Settles O18: above lane 0's pair there is no other bit, and lane 3's pair is not shifted. -/
theorem groupLanesAsPictured : Obligations.GroupLanesAsPictured := by
  intro g
  have htop : g.b4.toNat / 64 % 4 = g.b4.toNat / 64 :=
    Nat.mod_eq_of_lt (Nat.div_lt_of_lt_mul g.b4.isLt)
  refine ⟨?_, laneSample_toNat g.b1 g.b4 1, laneSample_toNat g.b2 g.b4 2, ?_⟩
  · exact (laneSample_toNat g.b0 g.b4 0).trans (congrArg (4 * g.b0.toNat + ·) htop)
  · exact (laneSample_toNat g.b3 g.b4 3).trans (congrArg (4 * g.b3.toNat + · % 4) (Nat.div_one _))

end Sys2Proof.Machine
end

section
/-! PROOFS. What PARSE leaves when the header lies inside FILE (30_encoding.md R63 to R65,
41_header_parser.md R90 to R92): the header's fields, or none with the code of a bad CFA code. -/

namespace Sys2Proof.Machine

theorem exists_orderOfCode {n : Nat} (h : n ≤ 3) : ∃ o, orderOfCode n = some o := by
  interval_cases n <;> exact ⟨_, rfl⟩

/-- With the header inside FILE, PARSE latches the header's fields, or no order has the CFA code. -/
theorem execParse_of_header_inFile {s : State} {b : Block} {f : FileImage} (hb : s.block = some b)
    (hf : s.file = some f) (hin : b.base.toNat + 246 ≤ f.len.toNat) :
    (∃ o, orderOfCode (f.byte (b.base.toNat + 244)).toNat = some o ∧
      exec .parse s = .next (succeed { s with hdr := some (headerFields (blockByte f b) o) })) ∨
    (orderOfCode (f.byte (b.base.toNat + 244)).toNat = none ∧
      exec .parse s = .next (raise .unrecognizedCfaCode { s with hdr := none })) := by
  rcases execParse_cases s with ⟨hnone, -⟩ | ⟨b', hb', hexec⟩
  · cases hb.symm.trans hnone
  · obtain rfl := Option.some.inj (hb.symm.trans hb')
    rcases parseBody_cases b s with ⟨f', o, hf', -, ho, hbody⟩ | ⟨f', hf', -, ho, hbody⟩ | ⟨hout, -⟩
    · obtain rfl := Option.some.inj (hf.symm.trans hf')
      exact .inl ⟨o, ho, hexec.trans (congrArg finish hbody)⟩
    · obtain rfl := Option.some.inj (hf.symm.trans hf')
      exact .inr ⟨ho, hexec.trans (congrArg finish hbody)⟩
    · exact absurd ((blockInFile_iff f b _).2 hin) (Bool.eq_false_iff.1 (hout f hf))

/-- Settles O14: a code of at most 3 has an order, and each field is read at its own offset. -/
theorem parseLatchesEveryField : Obligations.ParseLatchesEveryField := by
  intro s b f hb hf hin hcode
  rcases execParse_of_header_inFile hb hf hin with ⟨o, ho, hexec⟩ | ⟨ho, -⟩
  · have hfield (k : Nat) := field16_toNat (blockByte f b) k
    exact ⟨headerFields (blockByte f b) o, hexec,
      fun i => (getElem_byteArray _ 176 32 i).trans (by rw [blockByte, Nat.add_assoc]),
      hfield 208, hfield 210, hfield 212, hfield 214,
      fun i => (getElem_byteArray _ 216 24 i).trans (by rw [blockByte, Nat.add_assoc]),
      hfield 240, hfield 242, rfl, rfl, (orderOfCode_some ho).symm⟩
  · obtain ⟨o, ho'⟩ := exists_orderOfCode hcode
    cases ho.symm.trans ho'

/-- Settles O15. -/
theorem parseRejectsBadCfaCode : Obligations.ParseRejectsBadCfaCode := by
  intro s b f hb hf hin hcode
  rcases execParse_of_header_inFile hb hf hin with ⟨o, ho, -⟩ | ⟨-, hexec⟩
  · cases ho.symm.trans (orderOfCode_eq_none hcode)
  · exact hexec

end Sys2Proof.Machine
end

section
/-! PROOFS. What LOCATE leaves past its sequence check, for each end of the locator
(40_locator.md R81 to R83), and what it reads of FILE (R84). -/

namespace Sys2Proof.Machine

/-! ## The ends of the locator -/

section
variable {table : Config.BlockSizeTable} {f : FileImage} {v : Variant} {m : Byte} {size : U32}

/-- In a file that is long enough, the marker stands at the start of the trailing block. -/
theorem marker_trailing_iff (hle : size.toNat ≤ f.len.toNat) :
    (List.range 4).map (blockByte f ⟨f.len - size, size⟩) = marker ↔
      f.byte (f.len.toNat - size.toNat) = 0x42 ∧ f.byte (f.len.toNat - size.toNat + 1) = 0x52 ∧
      f.byte (f.len.toNat - size.toNat + 2) = 0x43 ∧
      f.byte (f.len.toNat - size.toNat + 3) = 0x4D := by
  simp [marker, List.range_succ, blockByte, BitVec.toNat_sub_of_le hle]

theorem locate_of_no_entry (hsize : blockSize table v m = none) :
    locate table f v m = .error .unknownSensorMode := by
  simp only [locate, hsize]

theorem locate_of_short (hsize : blockSize table v m = some size)
    (hlt : f.len.toNat < size.toNat) : locate table f v m = .error .blockMissing := by
  simp only [locate, hsize, if_pos hlt]

theorem locate_of_marker (hsize : blockSize table v m = some size)
    (hle : size.toNat ≤ f.len.toNat)
    (hmarker : (List.range 4).map (blockByte f ⟨f.len - size, size⟩) = marker) :
    locate table f v m = .ok ⟨f.len - size, size⟩ := by
  simp only [locate, hsize, if_neg (Nat.not_lt.2 hle), if_pos hmarker]

theorem locate_of_not_marker (hsize : blockSize table v m = some size)
    (hle : size.toNat ≤ f.len.toNat)
    (hmarker : (List.range 4).map (blockByte f ⟨f.len - size, size⟩) ≠ marker) :
    locate table f v m = .error .malformedContainer := by
  simp only [locate, hsize, if_neg (Nat.not_lt.2 hle), if_neg hmarker]

end

/-! ## LOCATE at and past its sequence check -/

section
variable {s : State} {f : FileImage} {v : Variant} {m : Byte}

theorem execLocate_of_missing (h : s.file = none ∨ s.variant = none ∨ s.mode = none) :
    exec .locate s = outOfSequence s := by
  rcases execLocate_cases s with ⟨-, hexec⟩ | ⟨f, v, m, hf, hv, hm, -⟩
  · exact hexec
  · simp [hf, hv, hm] at h

theorem execLocate_of_inputs (hf : s.file = some f) (hv : s.variant = some v)
    (hm : s.mode = some m) :
    exec .locate s = finish (locateBody blockSizeTable f v m s) := by
  simp only [exec, execLocate, locateWith, hf, hv, hm]

theorem execLocate_of_ok {b : Block} (hf : s.file = some f) (hv : s.variant = some v)
    (hm : s.mode = some m) (hloc : locate blockSizeTable f v m = .ok b) :
    exec .locate s = .next (succeed { s with block := some b, hdr := none }) := by
  simp only [execLocate_of_inputs hf hv hm, locateBody, hloc, finish]

theorem execLocate_of_error {c : Cause} (hf : s.file = some f) (hv : s.variant = some v)
    (hm : s.mode = some m) (hloc : locate blockSizeTable f v m = .error c) :
    exec .locate s = .next (raise c { s with block := none, hdr := none }) := by
  simp only [execLocate_of_inputs hf hv hm, locateBody, hloc, finish]

end

/-- Settles O11: the length check keeps the trailing block's base from wrapping. -/
theorem locateFindsTheTrailingBlock : Obligations.LocateFindsTheTrailingBlock := by
  intro s f v m size hf hv hm hsize hle h0 h1 h2 h3
  have hbase : BitVec.ofNat 32 (f.len.toNat - size.toNat) = f.len - size := by
    rw [← BitVec.toNat_sub_of_le hle, BitVec.ofNat_toNat, BitVec.setWidth_eq]
  rw [hbase]
  exact execLocate_of_ok hf hv hm
    (locate_of_marker hsize hle ((marker_trailing_iff hle).2 ⟨h0, h1, h2, h3⟩))

/-- Settles O12: each failure is one end of the locator, raised after the clears. -/
theorem locateReportsEachFailure : Obligations.LocateReportsEachFailure := by
  intro s f v m hf hv hm
  refine ⟨fun hsize => ?noEntry, fun size hsize => ⟨fun hlt => ?short, fun hle hne => ?wrong⟩⟩
  case noEntry => exact execLocate_of_error hf hv hm (locate_of_no_entry hsize)
  case short => exact execLocate_of_error hf hv hm (locate_of_short hsize hlt)
  case wrong =>
    have hmarker := (marker_trailing_iff hle).not.2 (by simpa only [not_and_or] using hne)
    exact execLocate_of_error hf hv hm (locate_of_not_marker hsize hle hmarker)

/-! ## What LOCATE reads -/

/-- Only in a file that is long enough is the marker read, and there its address does not wrap. -/
theorem locate_congr_of_marker_bytes {table : Config.BlockSizeTable} {f f' : FileImage}
    {v : Variant} {m : Byte} (hlen : f'.len = f.len)
    (hbytes : ∀ size k, blockSize table v m = some size → k < 4 →
      f'.byte (f.len.toNat - size.toNat + k) = f.byte (f.len.toNat - size.toNat + k)) :
    locate table f' v m = locate table f v m := by
  by_cases hshort : ∃ size, blockSize table v m = some size ∧ f.len.toNat < size.toNat
  · obtain ⟨size, hsize, hlt⟩ := hshort
    rw [locate_of_short hsize hlt, locate_of_short hsize (hlen ▸ hlt)]
  · refine locate_congr hlen fun size hsize k hk => ?_
    have hle : size.toNat ≤ f.len.toNat := Nat.not_lt.1 fun hlt => hshort ⟨size, hsize, hlt⟩
    simpa only [blockByte, BitVec.toNat_sub_of_le hle] using hbytes size k hsize hk

/-- Settles O13: with a parameter missing LOCATE reads nothing, and else what its body reads. -/
theorem locateReadsOnlyTheMarker : Obligations.LocateReadsOnlyTheMarker := by
  intro s f f' hf hlen hbytes
  change exec .locate (s.holding f') = mapNext (State.holding f') (exec .locate s)
  rcases execLocate_cases s with ⟨hmissing, hexec⟩ | ⟨f₁, v, m, hf₁, hv, hm, hexec⟩
  · have hmissing' : s.variant = none ∨ s.mode = none := hmissing.resolve_left (by simp [hf])
    rw [hexec, execLocate_of_missing (s := s.holding f') (.inr hmissing')]
    exact outOfSequence_holding f' s
  · obtain rfl := Option.some.inj (hf.symm.trans hf₁)
    have hloc := locate_congr_of_marker_bytes hlen fun size k => hbytes v m size k hv hm
    rw [execLocate_of_inputs (State.holding_file f' s) hv hm, hexec, locateBody_holding s hloc,
      finish_holding]

end Sys2Proof.Machine
end

section
/-! PROOFS. What UNPACK leaves past its sequence check (42_sample_unpacker.md R105 to R109), the
samples as numbers (R107), and what a later file leaves of the grid (R111). -/

namespace Sys2Proof.Machine

/-! ## The conditions, in numbers -/

theorem byteRowWidth_eq (h : RawHeader) :
    byteRowWidth h = (((h.width.toNat + h.padRight.toNat + 31) / 32 * 32) * 5 + 3) / 4 := rfl

/-- R105 with the padding of R101 and the stride of R102 written out. -/
theorem geometrySize_eq_written (h : RawHeader) :
    geometrySize h = 32768 + (h.height.toNat + h.padDown.toNat + 15) / 16 * 16 *
      ((((h.width.toNat + h.padRight.toNat + 31) / 32 * 32) * 5 + 3) / 4) := rfl

/-- A row holds whole groups exactly when its width is a multiple of four samples (R106). -/
theorem cropBytes_mod_five_iff (h : RawHeader) :
    cropBytes h % 5 = 0 ↔ h.width.toNat % 4 = 0 := by
  simp only [cropBytes, cropOf]
  omega

/-! ## The ends of UNPACK -/

section
variable {s : State} {b : Block} {h : RawHeader}

theorem execUnpack_of_inputs (hb : s.block = some b) (hh : s.hdr = some h) :
    exec .unpack s = finish (unpackBody b h s) := by
  simp only [exec, execUnpack, hb, hh]

theorem execUnpack_of_size_ne (hb : s.block = some b) (hh : s.hdr = some h)
    (hsize : geometrySize h ≠ b.size.toNat) :
    exec .unpack s = .next (raise .blockSizeMismatch { s with grid := none }) := by
  simp only [execUnpack_of_inputs hb hh, unpackBody, if_pos hsize, finish]

theorem execUnpack_of_partial_group (hb : s.block = some b) (hh : s.hdr = some h)
    (hsize : geometrySize h = b.size.toNat) (hcrop : cropBytes h % 5 ≠ 0) :
    exec .unpack s = .next (raise .invalidRowWidth { s with grid := none }) := by
  simp only [execUnpack_of_inputs hb hh, unpackBody, if_neg (not_not.2 hsize), if_pos hcrop, finish]

theorem execUnpack_of_fits {f : FileImage} (hb : s.block = some b) (hh : s.hdr = some h)
    (hf : s.file = some f) (hsize : geometrySize h = b.size.toNat) (hcrop : cropBytes h % 5 = 0)
    (hin : blockInFile f b b.size.toNat = true) :
    exec .unpack s =
      .next (succeed { s with grid := some (unpackGrid (blockByte f b) h) }) := by
  simp only [execUnpack_of_inputs hb hh, unpackBody, if_neg (not_not.2 hsize),
    if_neg (not_not.2 hcrop), hf, if_pos hin, finish]

end

/-- Settles O21. -/
theorem unpackRejectsSizeMismatch : Obligations.UnpackRejectsSizeMismatch :=
  fun _ _ h hb hh hsize =>
    execUnpack_of_size_ne hb hh fun heq => hsize (heq.symm.trans (geometrySize_eq_written h))

/-- Settles O22. -/
theorem unpackRejectsPartialGroups : Obligations.UnpackRejectsPartialGroups :=
  fun _ _ h hb hh hsize hwidth =>
    execUnpack_of_partial_group hb hh ((geometrySize_eq_written h).trans hsize.symm)
      ((cropBytes_mod_five_iff h).not.2 hwidth)

/-! ## The samples -/

theorem groupAt_high (bytes : Nat → Byte) (o : Nat) {i : Nat} (hi : i < 4) :
    (groupAt bytes o).high i = bytes (o + i) := by
  match i with
  | 0 | 1 | 2 | 3 => rfl

theorem ByteGroup.sample_toNat (g : ByteGroup) (i : Nat) :
    (g.sample i).toNat = 4 * (g.high i).toNat + g.b4.toNat / 4 ^ (3 - i) % 4 := by
  have hpow : 2 ^ (2 * (3 - i)) = 4 ^ (3 - i) := pow_mul 2 2 _
  rw [ByteGroup.sample, laneSample_toNat, hpow]

theorem sampleAt_toNat (bytes : Nat → Byte) (brw r c : Nat) :
    (sampleAt bytes brw r c).toNat =
      4 * (bytes (32768 + r * brw + 5 * (c / 4) + c % 4)).toNat +
        (bytes (32768 + r * brw + 5 * (c / 4) + 4)).toNat / 4 ^ (3 - c % 4) % 4 := by
  rw [sampleAt, ByteGroup.sample_toNat, groupAt_high _ _ (Nat.mod_lt c (by decide))]
  rfl

/-- Settles O20. -/
theorem unpackExpandsEveryGroup : Obligations.UnpackExpandsEveryGroup := by
  intro s b h f brw hb hh hf hin hbrw hsize hwidth
  subst hbrw
  have hgeometry : geometrySize h = b.size.toNat := (geometrySize_eq_written h).trans hsize.symm
  have hcrop : cropBytes h % 5 = 0 := (cropBytes_mod_five_iff h).2 hwidth
  have hblock : blockInFile f b b.size.toNat = true := (blockInFile_iff f b _).2 hin
  refine ⟨unpackGrid (blockByte f b) h, execUnpack_of_fits hb hh hf hgeometry hcrop hblock,
    rfl, rfl, rfl, length_tabulate _ _ _, fun r c hr hc => ⟨_, getElem?_tabulate _ hr hc, ?_⟩⟩
  simp only [sampleAt_toNat, byteRowWidth_eq, blockByte, Nat.add_assoc]

/-! ## A grid that UNPACK made -/

/-- Eight bits above two make ten (R111). -/
theorem ByteGroup.sample_le (g : ByteGroup) (i : Nat) : (g.sample i).toNat ≤ 1023 := by
  have hhigh : (g.high i).toNat < 256 := (g.high i).isLt
  have hpair : g.b4.toNat / 4 ^ (3 - i) % 4 < 4 := Nat.mod_lt _ (by decide)
  rw [ByteGroup.sample_toNat]
  omega

theorem unpackGrid_samples_le (bytes : Nat → Byte) (h : RawHeader) :
    ∀ x ∈ (unpackGrid bytes h).samples, x.toNat ≤ 1023 :=
  forall_mem_tabulate fun _ _ _ _ => ByteGroup.sample_le _ _

/-- An UNPACK that succeeds leaves the grid of the header and of some bytes; of its four ends no other
reports success. -/
theorem unpack_grid {s t : State} (hexec : exec .unpack s = .next t) (hok : t.err = 0x00) :
    ∃ h bytes, s.hdr = some h ∧ cropBytes h % 5 = 0 ∧ t.grid = some (unpackGrid bytes h) := by
  rcases execUnpack_cases s with ⟨-, hseq⟩ | ⟨b, h, -, hh, hbody⟩
  · cases hexec.symm.trans hseq
    cases hok
  · rcases unpackBody_cases b h s with
      ⟨f, -, -, hcrop, -, hx⟩ | ⟨-, hx⟩ | ⟨-, -, hx⟩ | ⟨-, -, -, hx⟩ <;>
      cases hexec.symm.trans (hbody.trans (congrArg finish hx))
    · exact ⟨h, blockByte f b, hh, hcrop, rfl⟩
    · cases hok
    · cases hok

theorem loadFile_grid {bytes : List Byte} {s t : State} (h : loadFile bytes s = .next t) :
    t.grid = s.grid := by
  obtain ⟨-, rfl⟩ := loadFile_next h
  rfl

/-- Settles O24. -/
theorem unpackedGridInvariants : Obligations.UnpackedGridInvariants := by
  intro s t hexec hok
  obtain ⟨h, bytes, hh, hcrop, hgrid⟩ := unpack_grid hexec hok
  exact ⟨h, unpackGrid bytes h, hh, hgrid, rfl, rfl, (cropBytes_mod_five_iff h).1 hcrop,
    (Grid.sized_iff _).1 (unpackGrid_sized bytes h), unpackGrid_samples_le bytes h,
    fun _ _ hload => (loadFile_grid hload).trans hgrid⟩

end Sys2Proof.Machine
end

section
/-! PROOFS. The Bayer Mapper: the tile of each order (30_encoding.md R66, 43_bayer_mapper.md R120),
and what TO3D (R121, R122) and TORGB (R124 to R127) leave past their sequence check. -/

namespace Sys2Proof.Machine

/-! ## The tile -/

/-- The tile repeats with period two in both directions (R120). -/
theorem chan_mod_two (o : CfaOrder) (r c : Nat) : chan o r c = chan o (r % 2) (c % 2) := by
  simp only [chan, colour, Nat.mod_mod]

/-- Settles O26: but for the period, which holds at every position, the tables are finite. -/
theorem tileTablesAsWritten : Obligations.TileTablesAsWritten :=
  ⟨rfl, rfl, rfl, rfl, rfl, chan_mod_two, fun o => by cases o <;> decide⟩

/-- The four tile offsets of an order: red, the two greens, blue. -/
def tileOffsets (o : CfaOrder) : List (Nat × Nat) := [redAt o, green1At o, green2At o, blueAt o]

theorem tileOffsets_le_one (o : CfaOrder) : ∀ p ∈ tileOffsets o, p.1 ≤ 1 ∧ p.2 ≤ 1 := by
  cases o <;> decide

/-! ## The ends of TO3D and TORGB -/

section
variable {s : State} {g : Grid}

theorem execTo3d_of_sized (hs : s.grid = some g) (hg : g.sized = true) :
    exec .to3d s = .next (succeed { s with ch3 := some (to3dImage g) }) := by
  simp only [exec, execTo3d, hs, to3dBody, if_pos hg, finish]

theorem execTorgb_of_grid (hs : s.grid = some g) : exec .torgb s = finish (torgbBody g s) := by
  simp only [exec, execTorgb, hs]

theorem execTorgb_of_odd_width (hs : s.grid = some g) (hw : g.w.toNat % 2 = 1) :
    exec .torgb s = .next (raise (.unevenDimension .width g.w) { s with rgb := none }) := by
  simp only [execTorgb_of_grid hs, torgbBody, if_pos hw, finish]

theorem execTorgb_of_odd_height (hs : s.grid = some g) (hw : g.w.toNat % 2 = 0)
    (hh : g.h.toNat % 2 = 1) :
    exec .torgb s = .next (raise (.unevenDimension .height g.h) { s with rgb := none }) := by
  simp only [execTorgb_of_grid hs, torgbBody, if_neg (Nat.mod_two_ne_one.2 hw), if_pos hh, finish]

theorem execTorgb_of_even (hs : s.grid = some g) (hg : g.sized = true) (hw : g.w.toNat % 2 = 0)
    (hh : g.h.toNat % 2 = 0) :
    exec .torgb s = .next (succeed { s with rgb := some (toRgbImage g) }) := by
  simp only [execTorgb_of_grid hs, torgbBody, if_neg (Nat.mod_two_ne_one.2 hw),
    if_neg (Nat.mod_two_ne_one.2 hh), if_pos hg, finish]

end

/-- Settles O30. -/
theorem torgbNamesTheOddDimension : Obligations.TorgbNamesTheOddDimension :=
  fun _ _ hs => ⟨execTorgb_of_odd_width hs, execTorgb_of_odd_height hs⟩

/-! ## The elements -/

section
variable {s : State} {g : Grid}

theorem Grid.at_of_getElem? {r c : Nat} {v : U16} (h : g.samples[r * g.w.toNat + c]? = some v) :
    g.at r c = v := by
  rw [Grid.at, List.getD_eq_getElem?_getD, h, Option.getD_some]

theorem gridElem_of_sized (hs : s.grid = some g) (hg : g.sized = true) {r c : Nat}
    (hr : r < g.h.toNat) (hc : c < g.w.toNat) : gridElem s r c = some (g.at r c) := by
  rw [gridElem, hs, Option.bind_some, if_pos ⟨hr, hc⟩, Grid.getElem?_at hg hr hc]

/-- A tile of TORGB's image lies inside the grid, at each of its four offsets. -/
theorem gridElem_tile (hs : s.grid = some g) (hg : g.sized = true) {t u : Nat}
    (ht : t < g.h.toNat / 2) (hu : u < g.w.toNat / 2) {p : Nat × Nat}
    (hp : p ∈ tileOffsets g.order) :
    gridElem s (2 * t + p.1) (2 * u + p.2) = some (tileSample g t u p) := by
  obtain ⟨hrow, hcol⟩ := tileOffsets_le_one g.order p hp
  exact gridElem_of_sized hs hg (by omega) (by omega)

end

@[simp] theorem toRgbImage_h (g : Grid) : (toRgbImage g).h.toNat = g.h.toNat / 2 :=
  BitVec.toNat_udiv

@[simp] theorem toRgbImage_w (g : Grid) : (toRgbImage g).w.toNat = g.w.toNat / 2 :=
  BitVec.toNat_udiv

theorem length_toRgbImage (g : Grid) :
    (toRgbImage g).elems.length = (toRgbImage g).h.toNat * (toRgbImage g).w.toNat * 3 := by
  rw [toRgbImage_h, toRgbImage_w]
  exact length_tabulate3 _ _ _

theorem getElem?_toRgbImage {g : Grid} {t u k : Nat} (ht : t < g.h.toNat / 2)
    (hu : u < g.w.toNat / 2) (hk : k < 3) :
    (toRgbImage g).elems[(t * (toRgbImage g).w.toNat + u) * 3 + k]? = some (rgbAt g t u k) := by
  rw [toRgbImage_w]
  exact getElem?_tabulate3 (rgbAt g) ht hu hk

/-- Settles O27: the sample that the grid's list holds is the one TO3D reads. -/
theorem to3dPutsEachSampleInItsChannel : Obligations.To3dPutsEachSampleInItsChannel := by
  intro s g hs hlen
  refine ⟨to3dImage g, execTo3d_of_sized hs ((Grid.sized_iff g).2 hlen), rfl, rfl,
    length_tabulate3 _ _ _, fun r c k v hr hc hk hv => ?_⟩
  rw [← Grid.at_of_getElem? hv]
  exact getElem?_tabulate3 (ch3At g) hr hc hk

/-- Settles O29: the four samples of a tile are elements of the grid, and 17 bits hold the doubles
and the sum. -/
theorem torgbCollapsesEachTile : Obligations.TorgbCollapsesEachTile := by
  intro s g hs hlen hw hh
  have hg : g.sized = true := (Grid.sized_iff g).2 hlen
  refine ⟨toRgbImage g, execTorgb_of_even hs hg hw hh, toRgbImage_h g, toRgbImage_w g,
    length_toRgbImage g, fun t u ht hu => ?_⟩
  have helem {k : Nat} (hk : k < 3) := getElem?_toRgbImage ht hu hk
  have hsample (p) (hp : p ∈ tileOffsets g.order) := gridElem_tile hs hg ht hu hp
  simp only [tileOffsets, List.forall_mem_cons] at hsample
  obtain ⟨hred, hgreen₁, hgreen₂, hblue, -⟩ := hsample
  exact ⟨_, _, _, _, _, _, _, helem (k := 0) (by decide), helem (k := 1) (by decide),
    helem (k := 2) (by decide), hred, hgreen₁, hgreen₂, hblue,
    doubled_toNat _, sum_toNat _ _, doubled_toNat _⟩

end Sys2Proof.Machine
end

section
/-! PROOFS. Every command ends with its result (44_decode.md R140, 70_reset_and_hazards.md R177). -/

namespace Sys2Proof.Machine

/-- A command refuses nothing: out of sequence it reports, and else it ends as its body does. -/
theorem exec_ne_refused (i : Instr) (s : State) (r : Refusal) : exec i s ≠ .refused r := by
  cases i with
  | locate =>
    rcases execLocate_cases s with ⟨-, h⟩ | ⟨f, v, m, -, -, -, h⟩
    · simp [h]
    · exact h ▸ finish_ne_refused _ r
  | parse =>
    rcases execParse_cases s with ⟨-, h⟩ | ⟨b, -, h⟩
    · simp [h]
    · exact h ▸ finish_ne_refused _ r
  | unpack =>
    rcases execUnpack_cases s with ⟨-, h⟩ | ⟨b, hd, -, -, h⟩
    · simp [h]
    · exact h ▸ finish_ne_refused _ r
  | to3d =>
    rcases execTo3d_cases s with ⟨-, h⟩ | ⟨g, -, h⟩
    · simp [h]
    · exact h ▸ finish_ne_refused _ r
  | torgb =>
    rcases execTorgb_cases s with ⟨-, h⟩ | ⟨g, -, h⟩
    · simp [h]
    · exact h ▸ finish_ne_refused _ r
  | decode =>
    rcases execDecode_cases s with ⟨-, h⟩ | ⟨f, v, m, -, -, -, h⟩
    · simp [h]
    · exact h ▸ finish_ne_refused _ r

/-- Settles O45: the invariant rules out a fault, and a refusal never happens. -/
theorem everyCommandEnds : Obligations.EveryCommandEnds := by
  refine ⟨fun i s hs => ?_, exec_ne_refused⟩
  cases hx : exec i s with
  | next t => exact ⟨t, rfl⟩
  | fault e => exact absurd hx (exec_ne_fault i hs e)
  | refused r => exact absurd hx (exec_ne_refused i s r)

end Sys2Proof.Machine
end

section
/-! PROOFS. DECODE as LOCATE, PARSE and UNPACK one after the other (44_decode.md R146): the report
that each of them writes is overwritten by the next, which does not read it. -/

namespace Sys2Proof.Machine

/-! ## A stage does not read the report -/

theorem finish_parseBody_succeed (b : Block) (s : State) :
    finish (parseBody b (succeed s)) = finish (parseBody b s) := by
  simp only [parseBody, succeed_file]
  cases s.file with
  | none => rfl
  | some f =>
    dsimp only
    split
    · cases parseHeader (blockByte f b) <;> rfl
    · rfl

theorem finish_unpackBody_succeed (b : Block) (h : RawHeader) (s : State) :
    finish (unpackBody b h (succeed s)) = finish (unpackBody b h s) := by
  simp only [unpackBody, succeed_file]
  split
  · rfl
  · split
    · rfl
    · cases s.file with
      | none => rfl
      | some f =>
        dsimp only
        split <;> rfl

/-! ## Composition of commands -/

/-- The outcome of `o`, or of the next command `k` if `o` ended without an error (R146). -/
def thenIfOk (o : Host.Outcome State Fault Refusal)
    (k : State → Host.Outcome State Fault Refusal) : Host.Outcome State Fault Refusal :=
  match o with
  | .next s => if s.err = 0x00 then k s else .next s
  | .fault f => .fault f
  | .refused r => .refused r

theorem thenIfOk_raise (c : Cause) (s : State) (k : State → Host.Outcome State Fault Refusal) :
    thenIfOk (.next (raise c s)) k = .next (raise c s) :=
  if_neg (causeCode_ne_ok c)

/-- Two stages run as one command are two commands run one after the other, if the second makes of
the first one's successful end what its stage makes of the first stage's. -/
theorem finish_andThen {α β : Type} {x : Stage α} {k : α → State → Stage β}
    {cmd : State → Host.Outcome State Fault Refusal}
    (h : ∀ a s, x = .done a s → finish (k a s) = cmd (succeed s)) :
    finish (andThen x k) = thenIfOk (finish x) cmd := by
  cases x with
  | done a s => exact h a s rfl
  | raised c s => exact (thenIfOk_raise c s cmd).symm
  | stuck e => rfl

/-! ## The stages of DECODE -/

theorem locateBody_done_block {table : Config.BlockSizeTable} {f : FileImage} {v : Variant}
    {m : Byte} {s s' : State} {b : Block} (h : locateBody table f v m s = .done b s') :
    s'.block = some b := by
  rcases locateBody_cases table f v m s with ⟨b', -, hx⟩ | ⟨c, -, hx⟩
  · obtain ⟨rfl, rfl⟩ := Stage.done.inj (h.symm.trans hx)
    rfl
  · cases h.symm.trans hx

theorem parseBody_done_products {b : Block} {s s' : State} {hd : RawHeader}
    (h : parseBody b s = .done hd s') : s'.block = s.block ∧ s'.hdr = some hd := by
  rcases parseBody_cases b s with ⟨f, o, -, -, -, hx⟩ | ⟨f, -, -, -, hx⟩ | ⟨-, hx⟩
  · obtain ⟨rfl, rfl⟩ := Stage.done.inj (h.symm.trans hx)
    exact ⟨rfl, rfl⟩
  · cases h.symm.trans hx
  · cases h.symm.trans hx

theorem execParse_of_block {s : State} {b : Block} (hb : s.block = some b) :
    exec .parse s = finish (parseBody b s) := by
  simp only [exec, execParse, hb]

/-- PARSE and UNPACK as stages, after a stage that left the block `b`, are the two commands after the
successful end of that stage. -/
theorem finish_parse_unpack {b : Block} {s : State} (hb : s.block = some b) :
    finish (andThen (parseBody b s) fun h s₂ => unpackBody b h s₂) =
      thenIfOk (exec .parse (succeed s)) (exec .unpack) := by
  rw [execParse_of_block (s := succeed s) hb, finish_parseBody_succeed]
  refine finish_andThen fun h s₂ hparsed => ?_
  obtain ⟨hkept, hhdr⟩ := parseBody_done_products hparsed
  rw [execUnpack_of_inputs (s := succeed s₂) (hkept.trans hb) hhdr, finish_unpackBody_succeed]

/-- DECODE, past its sequence check or not, is the three commands in sequence. -/
theorem execDecode_eq (s : State) :
    exec .decode s =
      thenIfOk (exec .locate s) fun s₁ => thenIfOk (exec .parse s₁) (exec .unpack) := by
  rcases execDecode_cases s with ⟨hmissing, hx⟩ | ⟨f, v, m, hf, hv, hm, hx⟩
  · rw [hx, execLocate_of_missing hmissing]
    exact (thenIfOk_raise .sequenceError s _).symm
  · rw [hx, execLocate_of_inputs hf hv hm, decodeBody]
    exact finish_andThen fun b s₁ hlocated => finish_parse_unpack (locateBody_done_block hlocated)

/-- Settles O33. -/
theorem decodeIsLocateParseUnpack : Obligations.DecodeIsLocateParseUnpack := by
  intro s
  rw [execDecode_eq]
  cases exec .locate s with
  | next s₁ =>
    simp only [thenIfOk]
    cases exec .parse s₁ <;> rfl
  | fault e => rfl
  | refused r => rfl

/-- After a LOCATE and a PARSE that succeed, DECODE ends as UNPACK does. -/
theorem execDecode_of_stages {s s₁ s₂ : State} (hl : exec .locate s = .next s₁)
    (hok₁ : s₁.err = 0x00) (hp : exec .parse s₁ = .next s₂) (hok₂ : s₂.err = 0x00) :
    exec .decode s = exec .unpack s₂ := by
  simp only [execDecode_eq, hl, thenIfOk, if_pos hok₁, hp, if_pos hok₂]

/-! ## What DECODE leaves -/

theorem execParse_of_header {s : State} {b : Block} {f : FileImage} {hd : RawHeader}
    (hb : s.block = some b) (hf : s.file = some f)
    (hin : blockInFile f b (headerOffset + headerSize) = true)
    (hhd : parseHeader (blockByte f b) = .ok hd) :
    exec .parse s = .next (succeed { s with hdr := some hd }) := by
  simp only [execParse_of_block hb, parseBody, hf, if_pos hin, hhd, finish]

/-- With a block to locate, a header to parse and a geometry that fits, DECODE makes all three; the
located block ends where FILE does, so every read is inside. -/
theorem execDecode_of_fits {s : State} {f : FileImage} {v : Variant} {m : Byte} {b : Block}
    {hd : RawHeader} (hf : s.file = some f) (hv : s.variant = some v) (hm : s.mode = some m)
    (hloc : locate blockSizeTable f v m = .ok b) (hhd : parseHeader (blockByte f b) = .ok hd)
    (hsize : geometrySize hd = b.size.toNat) (hcrop : cropBytes hd % 5 = 0) :
    exec .decode s = .next (succeed { s with
      block := some b, hdr := some hd, grid := some (unpackGrid (blockByte f b) hd) }) := by
  have hb := locate_wfIn hloc
  have hlocate := execLocate_of_ok hf hv hm hloc
  have hparse := execParse_of_header (s := succeed { s with block := some b, hdr := none }) rfl hf
    (Block.blockInFile_of_wfIn hb (Block.header_le_size hb)) hhd
  rw [execDecode_of_stages hlocate rfl hparse rfl]
  exact execUnpack_of_fits rfl rfl hf hsize hcrop (Block.blockInFile_of_wfIn hb le_rfl)

/-- The block that ends where FILE does is located at its base, which no wrap displaces. -/
theorem locate_of_trailing {table : Config.BlockSizeTable} {f : FileImage} {v : Variant} {m : Byte}
    {size : U32} {base : Nat} (hsize : blockSize table v m = some size)
    (hend : base + size.toNat = f.len.toNat)
    (hmarker : f.byte base = 0x42 ∧ f.byte (base + 1) = 0x52 ∧ f.byte (base + 2) = 0x43 ∧
      f.byte (base + 3) = 0x4D) :
    locate table f v m = .ok ⟨BitVec.ofNat 32 base, size⟩ := by
  have hle : size.toNat ≤ f.len.toNat := by omega
  obtain rfl : base = f.len.toNat - size.toNat := by omega
  rw [← BitVec.toNat_sub_of_le hle, BitVec.ofNat_toNat, BitVec.setWidth_eq]
  exact locate_of_marker hsize hle ((marker_trailing_iff hle).2 hmarker)

/-- A CFA code of 0..3 names an order, and then the header parses (R65, R90). -/
theorem exists_parseHeader {bytes : Nat → Byte} (hcode : (bytes 244).toNat ≤ 3) :
    ∃ hd, parseHeader bytes = .ok hd ∧
      hd.width.toNat = (bytes 208).toNat + 256 * (bytes 209).toNat ∧
      hd.height.toNat = (bytes 210).toNat + 256 * (bytes 211).toNat ∧
      hd.padRight.toNat = (bytes 212).toNat + 256 * (bytes 213).toNat ∧
      hd.padDown.toNat = (bytes 214).toNat + 256 * (bytes 215).toNat ∧
      hd.cfaCode = bytes 244 ∧ (orderCode hd.order).toNat = (bytes 244).toNat := by
  obtain ⟨o, ho⟩ := exists_orderOfCode hcode
  have horder : cfaOrder (bytes (headerOffset + 68)) = some o := ho
  exact ⟨headerFields bytes o, by simp only [parseHeader, horder], field16_toNat bytes 208,
    field16_toNat bytes 210, field16_toNat bytes 212, field16_toNat bytes 214, rfl,
    (orderOfCode_some ho).symm⟩

/-- Settles O34: the bytes of the block are those of FILE from `base` up, so the header of the block
is the one the hypotheses describe. -/
theorem decodeDeliversTheGrid : Obligations.DecodeDeliversTheGrid := by
  intro s f v m size base w h pr pd brw hf hv hm hsize hend h0 h1 h2 h3 hw hh hpr hpd hcode hbrw
    hgeometry hwidth
  have hloc := locate_of_trailing hsize hend ⟨h0, h1, h2, h3⟩
  have hbase : (BitVec.ofNat 32 base).toNat = base := by
    have hlen : f.len.toNat < 2 ^ 32 := f.len.isLt
    rw [BitVec.toNat_ofNat]
    exact Nat.mod_eq_of_lt (by omega)
  have hbytes : blockByte f ⟨BitVec.ofNat 32 base, size⟩ = fun k => f.byte (base + k) := by
    funext k
    rw [blockByte, hbase]
  obtain ⟨hd, hparse, hdw, hdh, hdpr, hdpd, hdcode, hdorder⟩ :=
    exists_parseHeader (bytes := fun k => f.byte (base + k)) hcode
  replace hdw := hdw.trans hw.symm
  replace hdh := hdh.trans hh.symm
  have hrow : byteRowWidth hd = brw := by
    rw [byteRowWidth_eq, hdw, hdpr, ← hpr, ← hbrw]
  have hfits : geometrySize hd = size.toNat := by
    rw [geometrySize_eq_written, ← byteRowWidth_eq, hrow, hdh, hdpd, ← hpd, ← hgeometry]
  have hcrop : cropBytes hd % 5 = 0 := (cropBytes_mod_five_iff hd).2 (hdw ▸ hwidth)
  refine ⟨hd, unpackGrid (fun k => f.byte (base + k)) hd, ?decodes, hdw, hdh, hdpr.trans hpr.symm,
    hdpd.trans hpd.symm, hdcode, hdorder, rfl, rfl, rfl, ?length, fun r c hr hc => ?sample⟩
  case decodes =>
    rw [← hbytes] at hparse ⊢
    exact execDecode_of_fits hf hv hm hloc hparse hfits hcrop
  case length => rw [unpackGrid, length_tabulate, hdh, hdw]
  case sample =>
    refine ⟨sampleAt (fun k => f.byte (base + k)) (byteRowWidth hd) r c, ?_, ?_⟩
    · rw [unpackGrid, hdh, hdw]
      exact getElem?_tabulate _ hr hc
    · simp only [sampleAt_toNat, hrow, Nat.add_assoc]

/-- Settles O35: DECODE is out of sequence, or ends as LOCATE, PARSE or UNPACK does in the state the
stages before it left. -/
theorem decodeFailureTable : Obligations.DecodeFailureTable := by
  intro s t h
  have own := exec_writesOnlyOwn h
  refine ⟨own.ch3 nofun, own.rgb nofun, ?_⟩
  rcases exec_next h with rfl | ⟨o, s', hends, rfl⟩
  · exact .inl ⟨rfl, rfl, rfl, rfl⟩
  · refine .inr ?_
    cases hends with
    | decodeLocateFails hl =>
      cases hl with
      | locateFails hc =>
        refine .inl ⟨?_, rfl, rfl, rfl⟩
        rcases hc with rfl | rfl | rfl <;> simp [report, causeCode]
    | decodeParseFails hl hp =>
      cases hl
      cases hp
      exact .inr (.inl ⟨rfl, rfl, rfl, rfl⟩)
    | decodeUnpackEnds hl hp hu =>
      cases hl
      cases hp
      cases hu with
      | unpackFails hc =>
        refine .inr (.inr (.inl ⟨?_, rfl, rfl, rfl⟩))
        rcases hc with rfl | rfl <;> simp [report, causeCode]
      | unpacks hg => exact .inr (.inr (.inr ⟨rfl, rfl, rfl, rfl⟩))

end Sys2Proof.Machine
end

section
/-! PROOFS. What the host's transactions other than CMD writes do (44_decode.md R141 to R145):
loads and parameters by equation, reads by the element they find (20_memory.md R40, R53). -/

namespace Sys2Proof.Machine

/-! ## H_LOADFILE -/

theorem FileImage.ofBytes_len {bytes : List Byte} (h : bytes.length < 2 ^ 32) :
    (FileImage.ofBytes bytes).len.toNat = bytes.length := by
  rw [FileImage.ofBytes, BitVec.toNat_ofNat, Nat.mod_eq_of_lt h]

/-- Every byte of a loaded file is read at its own address. -/
theorem FileImage.byte_ofBytes {bytes : List Byte} {a : Nat} {v : Byte} (h : bytes[a]? = some v) :
    (FileImage.ofBytes bytes).byte a = v := by
  obtain ⟨ha, -⟩ := List.getElem?_eq_some_iff.1 h
  have hread := Memory.read_ofBytes bytes 0 a ha
  rw [Nat.zero_add, List.getD_eq_getElem?_getD, h, Option.getD_some] at hread
  exact hread

/-- Settles O48. -/
theorem loadFileStoresEveryByte : Obligations.LoadFileStoresEveryByte := by
  intro s bytes rest hs
  rw [step_of_script hs]
  exact ⟨fun hlen => ⟨FileImage.ofBytes bytes, if_pos hlen, FileImage.ofBytes_len hlen,
    fun _ _ => FileImage.byte_ofBytes⟩, fun hlen => if_neg (Nat.not_lt.2 hlen)⟩

/-! ## H_LOADGRID and H_SETORDER -/

theorem loadGrid_of_fits {h w n : Nat} {o : CfaOrder} {samples : List U16} (hh : h < 2 ^ 16)
    (hw : w < 2 ^ 16) (ho : orderOfCode n = some o) (hlen : samples.length = h * w) (s : State) :
    loadGrid h w n samples s = .next { s with
      grid := some ⟨BitVec.ofNat 16 h, BitVec.ofNat 16 w, o, samples⟩, hostReply := none } := by
  simp only [loadGrid, if_pos (And.intro hh hw), ho, if_pos hlen]

theorem loadGrid_of_count_ne {h w n : Nat} {o : CfaOrder} {samples : List U16} (hh : h < 2 ^ 16)
    (hw : w < 2 ^ 16) (ho : orderOfCode n = some o) (hlen : samples.length ≠ h * w) (s : State) :
    loadGrid h w n samples s = .refused .sampleCountWrong := by
  simp only [loadGrid, if_pos (And.intro hh hw), ho, if_neg hlen]

/-- Settles O49: a size or an order out of range makes the transaction ill-formed. -/
theorem loadGridStoresEverySample : Obligations.LoadGridStoresEverySample := by
  intro s h w n samples rest hs
  rw [step_of_script hs]
  refine ⟨fun hh hw hn => ?fits, fun hout => hostTransaction_refused_of_illFormed _ ?illFormed⟩
  case fits =>
    have hh' : h < 2 ^ 16 := Nat.lt_succ_of_le hh
    have hw' : w < 2 ^ 16 := Nat.lt_succ_of_le hw
    obtain ⟨o, ho⟩ := exists_orderOfCode hn
    have hhNat : (BitVec.ofNat 16 h).toNat = h := Nat.mod_eq_of_lt hh'
    have hwNat : (BitVec.ofNat 16 w).toNat = w := Nat.mod_eq_of_lt hw'
    refine ⟨fun hlen => ⟨⟨BitVec.ofNat 16 h, BitVec.ofNat 16 w, o, samples⟩,
      loadGrid_of_fits hh' hw' ho hlen _, hhNat, hwNat, (orderOfCode_some ho).symm, rfl,
      fun r c hr hc => ?_⟩, fun hlen => loadGrid_of_count_ne hh' hw' ho hlen _⟩
    simp only [gridElem, Option.bind_some, hhNat, hwNat, if_pos (And.intro hr hc)]
  case illFormed =>
    simp only [HostTransaction.wellFormed, Bool.and_eq_false_iff, decide_eq_false_iff_not]
    omega

theorem setOrder_of_grid {n : Nat} {o : CfaOrder} {g : Grid} {s : State} (hg : s.grid = some g)
    (ho : orderOfCode n = some o) :
    setOrder n s = .next { s with grid := some { g with order := o }, hostReply := none } := by
  simp only [setOrder, ho, hg]

theorem setOrder_of_no_grid {s : State} (hg : s.grid = none) (n : Nat) :
    ∃ r, setOrder n s = .refused r := by
  cases ho : orderOfCode n with
  | none => exact ⟨.orderOutOfRange, by simp only [setOrder, ho]⟩
  | some o => exact ⟨.noGridToOrder, by simp only [setOrder, ho, hg]⟩

/-- Settles O50: register 0x42 is GRID_ORDER, whose write is H_SETORDER. -/
theorem setOrderRewritesOnlyTheOrder : Obligations.SetOrderRewritesOnlyTheOrder := by
  intro s n rest hs
  rw [step_of_script hs]
  refine ⟨fun g hg hn => ?_, fun hout => ?_, rfl⟩
  · obtain ⟨o, ho⟩ := exists_orderOfCode hn
    exact ⟨o, (orderOfCode_some ho).symm, setOrder_of_grid hg ho⟩
  · rcases hout with hg | hn
    · exact setOrder_of_no_grid (s := { s with script := rest }) hg n
    · exact hostTransaction_refused_of_illFormed _ (decide_eq_false (Nat.not_lt.2 hn))

/-! ## The parameters -/

/-- The code of a variant names it (R75). -/
theorem variantOfCode_variantCode (v : Variant) : variantOfCode (variantCode v).toNat = some v := by
  cases v <;> rfl

theorem writeRegister_variant (v : Variant) (s : State) :
    writeRegister 0x08 (variantCode v).toNat s =
      .next { s with variant := some v, hostReply := none } := by
  simp only [writeRegister, regOfNumber, variantOfCode_variantCode]

theorem writeRegister_mode (m : Byte) (s : State) :
    writeRegister 0x09 m.toNat s = .next { s with mode := some m, hostReply := none } := by
  simp only [writeRegister, regOfNumber, if_pos m.isLt, BitVec.ofNat_toNat, BitVec.setWidth_eq]

/-- Settles O51. -/
theorem setParamWritesTheParameters : Obligations.SetParamWritesTheParameters :=
  fun s v m => ⟨rfl, writeRegister_variant v s, writeRegister_mode m s⟩

/-! ## H_READ of a memory -/

/-- An element that is there is answered; `e` is the element of whichever space the address is in. -/
theorem readsMem_of_elem {n : Nat} {s : State} {a : MemAddr} {e : Option (BitVec n)} {v : BitVec n}
    (ha : memValue s a = e.map (·.toNat)) (he : e = some v) : e = some v ∧ readsMem s a v.toNat :=
  ⟨he, readMemory_of_value (by rw [ha, he, Option.map_some])⟩

theorem refusesMem_of_elem {n : Nat} {s : State} {a : MemAddr} {e : Option (BitVec n)}
    (ha : memValue s a = e.map (·.toNat)) (he : e = none) : e = none ∧ refusesMem s a :=
  ⟨he, readMemory_of_none (by rw [ha, he, Option.map_none])⟩

section
variable {s : State} {r c k : Nat}

theorem fileElem_of_lt {f : FileImage} {a : Nat} (hs : s.file = some f) (ha : a < f.len.toNat) :
    fileElem s a = some (f.byte a) := by
  rw [fileElem, hs, Option.bind_some, if_pos ha]

theorem fileElem_of_outside {f : FileImage} {a : Nat} (hs : s.file = some f)
    (ha : f.len.toNat ≤ a) : fileElem s a = none := by
  rw [fileElem, hs, Option.bind_some, if_neg (Nat.not_lt.2 ha)]

theorem gridElem_of_inside {g : Grid} (hs : s.grid = some g) (hr : r < g.h.toNat)
    (hc : c < g.w.toNat) : gridElem s r c = g.samples[r * g.w.toNat + c]? := by
  rw [gridElem, hs, Option.bind_some, if_pos ⟨hr, hc⟩]

theorem gridElem_of_outside {g : Grid} (hs : s.grid = some g)
    (hout : g.h.toNat ≤ r ∨ g.w.toNat ≤ c) : gridElem s r c = none := by
  rw [gridElem, hs, Option.bind_some, if_neg (by omega)]

theorem ch3Elem_of_inside {x : ChannelImage} (hs : s.ch3 = some x) (hr : r < x.h.toNat)
    (hc : c < x.w.toNat) (hk : k < 3) :
    ch3Elem s r c k = x.elems[(r * x.w.toNat + c) * 3 + k]? := by
  rw [ch3Elem, hs, Option.bind_some, if_pos ⟨hr, hc, hk⟩]

theorem ch3Elem_of_outside {x : ChannelImage} (hs : s.ch3 = some x)
    (hout : x.h.toNat ≤ r ∨ x.w.toNat ≤ c ∨ 3 ≤ k) : ch3Elem s r c k = none := by
  rw [ch3Elem, hs, Option.bind_some, if_neg (by omega)]

theorem rgbElem_of_inside {y : RgbImage} (hs : s.rgb = some y) (hr : r < y.h.toNat)
    (hc : c < y.w.toNat) (hk : k < 3) :
    rgbElem s r c k = y.elems[(r * y.w.toNat + c) * 3 + k]? := by
  rw [rgbElem, hs, Option.bind_some, if_pos ⟨hr, hc, hk⟩]

theorem rgbElem_of_outside {y : RgbImage} (hs : s.rgb = some y)
    (hout : y.h.toNat ≤ r ∨ y.w.toNat ≤ c ∨ 3 ≤ k) : rgbElem s r c k = none := by
  rw [rgbElem, hs, Option.bind_some, if_neg (by omega)]

end

theorem refusesMem_file {s : State} (h : s.file = none) (a : Nat) : refusesMem s (.file a) :=
  readMemory_of_none (by simp [memValue, fileElem, h])

theorem refusesMem_ch3 {s : State} (h : s.ch3 = none) (r c k : Nat) : refusesMem s (.ch3 r c k) :=
  readMemory_of_none (by simp [memValue, ch3Elem, h])

/-- Settles O52: each space by its own element, and a read that answers by what it leaves. -/
theorem readsAnswerOrAreRefused : Obligations.ReadsAnswerOrAreRefused := by
  refine ⟨fun s f a hs => ⟨fun ha => ?_, fun ha => ?_⟩,
    fun s g r c hs => ⟨fun v hr hc hv => ?_, fun hout => ?_⟩,
    fun s x r c k hs => ⟨fun v hr hc hk hv => ?_, fun hout => ?_⟩,
    fun s y r c k hs => ⟨fun v hr hc hk hv => ?_, fun hout => ?_⟩,
    fun s => ⟨refusesMem_file, refusesMem_grid, refusesMem_ch3, refusesMem_rgb⟩,
    fun s t a h => ?_, fun s t n k h => readRegister_next h⟩
  · exact readsMem_of_elem rfl (fileElem_of_lt hs ha)
  · exact refusesMem_of_elem rfl (fileElem_of_outside hs ha)
  · exact readsMem_of_elem rfl ((gridElem_of_inside hs hr hc).trans hv)
  · exact refusesMem_of_elem rfl (gridElem_of_outside hs hout)
  · exact readsMem_of_elem rfl ((ch3Elem_of_inside hs hr hc hk).trans hv)
  · exact refusesMem_of_elem rfl (ch3Elem_of_outside hs hout)
  · exact readsMem_of_elem rfl ((rgbElem_of_inside hs hr hc hk).trans hv)
  · exact refusesMem_of_elem rfl (rgbElem_of_outside hs hout)
  · obtain ⟨v, -, ht⟩ := readMemory_next h
    exact ⟨v, ht⟩

end Sys2Proof.Machine
end

section
/-! PROOFS. Errors (60_exceptions.md R150 to R157): the report tells the causes apart, a command that
misses an input changes the report alone, and a body that fails leaves its clears and the report. -/

namespace Sys2Proof.Machine

/-! ## The causes and their codes -/

/-- The cause that a report of ERR, ERR_DIM and ERR_VAL names (R24, R151). -/
def causeOfReport (err : Byte) (dim : BitVec 1) (val : U16) : Option Cause :=
  match err.toNat with
  | 0x10 => some .unknownSensorMode
  | 0x20 => some .malformedContainer
  | 0x21 => some .blockMissing
  | 0x30 => some .unrecognizedCfaCode
  | 0x40 => some .invalidRowWidth
  | 0x41 => some (.unevenDimension (if dim = 0 then .width else .height) val)
  | 0x42 => some .blockSizeMismatch
  | 0xE0 => some .sequenceError
  | 0xF0 => some .illegalCommand
  | _ => none

/-- A cause can be read back from what it records. -/
theorem causeOfReport_report (c : Cause) :
    causeOfReport (causeCode c) (causeDim c) (causeVal c) = some c := by
  cases c with
  | unevenDimension d x => cases d <;> rfl
  | _ => rfl

theorem exists_unevenDimension_of_code {c : Cause} (h : causeCode c = 0x41) :
    ∃ d x, c = .unevenDimension d x := by
  cases c with
  | unevenDimension d x => exact ⟨d, x, rfl⟩
  | _ => simp [causeCode] at h

/-- Only UnevenDimensionError records a payload (R24). -/
theorem payload_of_code_ne {c : Cause} (h : causeCode c ≠ 0x41) :
    causeDim c = 0 ∧ causeVal c = 0 := by
  cases c with
  | unevenDimension d x => exact absurd rfl h
  | _ => exact ⟨rfl, rfl⟩

theorem causeCode_highNibble (c : Cause) :
    (causeCode c).extractLsb' 4 4 = kindNibble (causeKind c) := by
  cases c <;> simp [causeCode, causeKind, kindNibble]

/-- Settles O41: without a payload the code is the whole report, which names one cause. -/
theorem causeCodesAndKinds : Obligations.CauseCodesAndKinds := by
  refine ⟨fun c => ⟨causeCode_highNibble c, causeCode_listed c, causeCode_ne_ok c⟩,
    fun c c' hcode => ?_⟩
  by_cases h41 : causeCode c = 0x41
  · obtain ⟨d, x, rfl⟩ := exists_unevenDimension_of_code h41
    obtain ⟨d', x', rfl⟩ := exists_unevenDimension_of_code (hcode.symm.trans h41)
    exact .inr ⟨d, d', x, x', rfl, rfl⟩
  · obtain ⟨hdim, hval⟩ := payload_of_code_ne h41
    obtain ⟨hdim', hval'⟩ := payload_of_code_ne (hcode ▸ h41)
    refine .inl (Option.some.inj ?_)
    calc some c
        = causeOfReport (causeCode c) (causeDim c) (causeVal c) := (causeOfReport_report c).symm
      _ = causeOfReport (causeCode c') (causeDim c') (causeVal c') := by
          rw [hcode, hdim, hval, hdim', hval']
      _ = some c' := causeOfReport_report c'

theorem eq_sequenceError_of_code {c : Cause} (h : causeCode c = 0xE0) : c = .sequenceError := by
  rcases causeCodesAndKinds.2 c .sequenceError h with hc | ⟨d, d', x, x', -, hc⟩
  · exact hc
  · cases hc

/-! ## Out of sequence -/

section
variable {s : State}

theorem execDecode_of_missing (h : s.file = none ∨ s.variant = none ∨ s.mode = none) :
    exec .decode s = outOfSequence s := by
  rw [execDecode_eq, execLocate_of_missing h]
  exact thenIfOk_raise .sequenceError s _

theorem execParse_of_missing (h : s.block = none) : exec .parse s = outOfSequence s := by
  rcases execParse_cases s with ⟨-, hexec⟩ | ⟨b, hb, -⟩
  · exact hexec
  · cases h.symm.trans hb

theorem execUnpack_of_missing (h : s.block = none ∨ s.hdr = none) :
    exec .unpack s = outOfSequence s := by
  rcases execUnpack_cases s with ⟨-, hexec⟩ | ⟨b, hd, hb, hh, -⟩
  · exact hexec
  · simp [hb, hh] at h

theorem execTo3d_of_missing (h : s.grid = none) : exec .to3d s = outOfSequence s := by
  rcases execTo3d_cases s with ⟨-, hexec⟩ | ⟨g, hg, -⟩
  · exact hexec
  · cases h.symm.trans hg

theorem execTorgb_of_missing (h : s.grid = none) : exec .torgb s = outOfSequence s := by
  rcases execTorgb_cases s with ⟨-, hexec⟩ | ⟨g, hg, -⟩
  · exact hexec
  · cases h.symm.trans hg

end

/-- Settles O37. -/
theorem missingInputsRaiseSequenceError : Obligations.MissingInputsRaiseSequenceError := by
  refine fun s => ⟨fun i hi h => ?_, execParse_of_missing, execUnpack_of_missing,
    fun i hi h => ?_, fun c hc => ?_⟩
  · rcases List.mem_pair.1 hi with rfl | rfl
    · exact execLocate_of_missing h
    · exact execDecode_of_missing h
  · rcases List.mem_pair.1 hi with rfl | rfl
    · exact execTo3d_of_missing h
    · exact execTorgb_of_missing h
  · cases hdecode : decode c with
    | ok i => exact absurd hdecode (hc i)
    | error e => exact runCommand_of_illegal hdecode s

/-- SequenceError is the sequence check's own: no body raises it. -/
theorem CommandEnds.not_sequenceError {i : Instr} {s s' : State} :
    ¬ CommandEnds i s (some .sequenceError) s' := by
  intro h
  cases i with
  | locate => simpa using h.locate_failed
  | parse => simpa using h.parse_failed
  | unpack => simpa using h.unpack_failed
  | to3d => exact h.to3d_not_failed
  | torgb => simpa using h.torgb_failed
  | decode => simpa using h.decode_failed

/-- Settles O38: the code 0xE0 comes from the sequence check, for no body raises its cause. -/
theorem sequenceErrorChangesNothingElse : Obligations.SequenceErrorChangesNothingElse := by
  intro i s t h herr
  rcases exec_next h with rfl | ⟨_ | c, s', hends, rfl⟩
  · rfl
  · cases herr
  · obtain rfl := eq_sequenceError_of_code herr
    exact absurd hends CommandEnds.not_sequenceError

/-! ## Failures past the sequence check -/

/-- A body that fails in another command than TORGB raises a cause without a payload. -/
theorem CommandEnds.payload_of_ne_torgb {i : Instr} {s s' : State} {c : Cause}
    (h : CommandEnds i s (some c) s') (hi : i ≠ .torgb) : causeDim c = 0 ∧ causeVal c = 0 := by
  rcases h.cause with hplain | ⟨htorgb, -⟩
  · obtain ⟨-, -, hpayload⟩ := c.report_of_isPlain hplain
    exact hpayload
  · exact absurd htorgb hi

/-- The report of a cause that records no payload. -/
theorem raise_of_no_payload {c : Cause} (h : causeDim c = 0 ∧ causeVal c = 0) (s : State) :
    raise c s = { s with err := causeCode c, errDim := 0, errVal := 0, fault := true } := by
  obtain ⟨hdim, hval⟩ := h
  rw [raise, hdim, hval]

/-- Settles O39: a failed body leaves its clears, and only TORGB's report has a payload. -/
theorem failedCommandLeavesNoProduct : Obligations.FailedCommandLeavesNoProduct := by
  intro s t hok hseq
  refine ⟨fun h => ?locate, fun h => ?parse, fun h => ?unpack, fun h => ?torgb, fun h => ?to3d⟩ <;>
    obtain ⟨c, s', hends, rfl⟩ := exec_failed h hok hseq
  case locate =>
    have hpayload := hends.payload_of_ne_torgb nofun
    cases hends
    exact raise_of_no_payload hpayload _
  case parse => cases hends; rfl
  case unpack =>
    have hpayload := hends.payload_of_ne_torgb nofun
    cases hends
    exact raise_of_no_payload hpayload _
  case torgb => cases hends; rfl
  case to3d => exact hends.to3d_not_failed

/-! ## No transaction -/

/-- Settles O6. -/
theorem idleStepChangesNothing : Obligations.IdleStepChangesNothing := fun _ => step_idle

end Sys2Proof.Machine
end

section
/-! PROOFS. Reset and the hazards of stale products (70_reset_and_hazards.md R170 to R173): which
step can give PCRAW a block or a header it had not. -/

namespace Sys2Proof.Machine

/-! ## Reset -/

/-- Settles O8. -/
theorem resetClearsEverything : Obligations.ResetClearsEverything := fun _ _ hs =>
  (step_of_script hs).trans (congrArg Host.Outcome.next (resetKeepingScript_eq _))

/-! ## Out of sequence without a block, without a header -/

theorem exec_of_no_block {s : State} (hs : s.block = none) :
    ∀ i ∈ [Instr.parse, Instr.unpack], exec i s = outOfSequence s := by
  intro i hi
  rcases List.mem_pair.1 hi with rfl | rfl
  · exact execParse_of_missing hs
  · exact execUnpack_of_missing (.inl hs)

theorem CommandEnds.locate_hdr {s s' : State} {o : Option Cause} (h : CommandEnds .locate s o s') :
    s'.hdr = none := by
  cases h <;> rfl

/-- A LOCATE that passed its sequence check has cleared the header, located or not (R82). -/
theorem locate_started_hdr {s t : State} (h : exec .locate s = .next t) (hseq : t.err ≠ 0xE0) :
    t.hdr = none := by
  rcases exec_next h with rfl | ⟨_ | c, s', hends, rfl⟩
  · exact absurd rfl hseq
  · exact hends.locate_hdr
  · exact hends.locate_hdr

/-- LOCATE never brings a header. -/
theorem locate_hdr_none {s t : State} (h : exec .locate s = .next t) (hs : s.hdr = none) :
    t.hdr = none := by
  by_cases hseq : t.err = 0xE0
  · rw [sequenceErrorChangesNothingElse .locate s t h hseq]
    exact hs
  · exact locate_started_hdr h hseq

/-! ## What brings a block or a header -/

/-- A CMD write that brings a block runs LOCATE or DECODE. -/
theorem runCommand_gains_block {c : Byte} {s t : State} (h : runCommand c s = .next t)
    (hs : s.block = none) (ht : t.block ≠ none) :
    decode c = .ok .locate ∨ decode c = .ok .decode := by
  rcases runCommand_next h with ⟨-, -, rfl⟩ | ⟨i, u, hi, hu, rfl⟩
  · exact absurd hs ht
  · by_contra hc
    obtain ⟨hl, hd⟩ := not_or.1 hc
    exact ht (((exec_writesOnlyOwn hu).block (fun e => hl (e ▸ hi)) fun e => hd (e ▸ hi)).trans hs)

/-- A CMD write that brings a header runs PARSE or DECODE. -/
theorem runCommand_gains_hdr {c : Byte} {s t : State} (h : runCommand c s = .next t)
    (hs : s.hdr = none) (ht : t.hdr ≠ none) :
    decode c = .ok .parse ∨ decode c = .ok .decode := by
  rcases runCommand_next h with ⟨-, -, rfl⟩ | ⟨i, u, hi, hu, rfl⟩
  · exact absurd hs ht
  · by_contra hc
    obtain ⟨hp, hd⟩ := not_or.1 hc
    refine ht (((exec_writesOnlyOwn hu).hdr ?_ (fun e => hp (e ▸ hi)) fun e => hd (e ▸ hi)).trans hs)
    rintro rfl
    exact absurd (locate_hdr_none hu hs) ht

/-- `t` has a block only if `s` has one, and a header only if `s` has one. -/
structure GainsNoInput (s t : State) : Prop where
  block : s.block = none → t.block = none
  hdr : s.hdr = none → t.hdr = none

theorem GainsNoInput.of_eq {s t : State} (hblock : t.block = s.block) (hhdr : t.hdr = s.hdr) :
    GainsNoInput s t := ⟨hblock.trans, hhdr.trans⟩

theorem setOrder_gainsNoInput {order : Nat} {s t : State} (h : setOrder order s = .next t) :
    GainsNoInput s t := by
  obtain ⟨o, g, -, -, rfl⟩ := setOrder_next h
  exact .of_eq rfl rfl

/-- A write to another register than CMD sets a parameter or the grid's order. -/
theorem writeRegister_gainsNoInput {n value : Nat} {s t : State} (hn : n ≠ 0x00)
    (h : writeRegister n value s = .next t) : GainsNoInput s t := by
  cases hr : regOfNumber n with
  | none => simp only [writeRegister, hr] at h; cases h
  | some r =>
    cases r <;> simp only [writeRegister, hr] at h
    case cmd => exact absurd (regOfNumber_eq_some_iff.1 hr) hn.symm
    case variant | mode =>
      split at h
      · obtain rfl := Host.Outcome.next.inj h; exact .of_eq rfl rfl
      · cases h
    case gridOrder => exact setOrder_gainsNoInput h
    all_goals cases h

/-- Only a byte written to CMD can bring a block or a header. -/
theorem hostTransaction_runs_or_gainsNoInput {tr : HostTransaction} {s t : State}
    (h : hostTransaction tr s = .next t) :
    (∃ c, (tr = .writeCmd c ∨ tr = .writeReg 0x00 c.toNat) ∧ runCommand c s = .next t) ∨
      GainsNoInput s t := by
  cases tr with
  | loadFile bytes => obtain ⟨-, rfl⟩ := loadFile_next h; exact .inr ⟨fun _ => rfl, id⟩
  | setParam v m => obtain rfl := Host.Outcome.next.inj h; exact .inr (.of_eq rfl rfl)
  | loadGrid gh gw order samples =>
    obtain ⟨o, -, -, -, -, rfl⟩ := loadGrid_next h; exact .inr (.of_eq rfl rfl)
  | setOrder order => exact .inr (setOrder_gainsNoInput h)
  | writeCmd c => exact .inl ⟨c, .inl rfl, h⟩
  | writeReg n value =>
    by_cases hn : n = 0x00
    · subst hn
      rcases Nat.lt_or_ge value 256 with hv | hv
      · refine .inl ⟨BitVec.ofNat 8 value, .inr ?_, (writeRegister_cmd hv s).symm.trans h⟩
        rw [BitVec.toNat_ofNat, Nat.mod_eq_of_lt hv]
      · cases (writeRegister_cmd_tooWide hv s).symm.trans h
    · exact .inr (writeRegister_gainsNoInput hn h)
  | readReg n k => obtain ⟨v, rfl⟩ := readRegister_next h; exact .inr (.of_eq rfl rfl)
  | readMem a => obtain ⟨v, -, rfl⟩ := readMemory_next h; exact .inr (.of_eq rfl rfl)
  | reset => obtain rfl := Host.Outcome.next.inj h; exact .inr ⟨fun _ => rfl, fun _ => rfl⟩

/-- A step writes a byte to CMD, or brings neither a block nor a header. -/
theorem step_runs_or_gainsNoInput {s t : State} (h : step s = .next t) :
    (∃ c rest, (s.script = .writeCmd c :: rest ∨ s.script = .writeReg 0x00 c.toNat :: rest) ∧
      runCommand c { s with script := rest } = .next t) ∨ GainsNoInput s t := by
  cases hscript : s.script with
  | nil =>
    obtain rfl := Host.Outcome.next.inj ((step_idle hscript).symm.trans h)
    exact .inr (.of_eq rfl rfl)
  | cons tr rest =>
    rw [step_of_script hscript] at h
    rcases hostTransaction_runs_or_gainsNoInput h with ⟨c, rfl | rfl, hrun⟩ | hgain
    · exact .inl ⟨c, rest, .inl rfl, hrun⟩
    · exact .inl ⟨c, rest, .inr rfl, hrun⟩
    · exact .inr ⟨hgain.block, hgain.hdr⟩

/-- Settles O56: a new file leaves no block and a started LOCATE no header, and a step that brings
either one writes to CMD the byte of a command that makes it. -/
theorem staleProductsAreOutOfSequence : Obligations.StaleProductsAreOutOfSequence := by
  refine ⟨fun s t bytes h => ?newFile, fun s t h hseq => ?locate,
    fun s => ⟨exec_of_no_block, fun hs => execUnpack_of_missing (.inr hs)⟩, fun s t h => ?step⟩
  case newFile =>
    obtain ⟨-, rfl⟩ := loadFile_next h
    exact ⟨rfl, exec_of_no_block rfl⟩
  case locate =>
    have hdr := locate_started_hdr h hseq
    exact ⟨hdr, execUnpack_of_missing (.inr hdr)⟩
  case step =>
    rcases step_runs_or_gainsNoInput h with ⟨c, rest, hscript, hrun⟩ | hgain
    · exact ⟨fun hs ht => ⟨c, rest, hscript, runCommand_gains_block hrun hs ht⟩,
        fun hs ht => ⟨c, rest, hscript, runCommand_gains_hdr hrun hs ht⟩⟩
    · exact ⟨fun hs ht => absurd (hgain.block hs) ht, fun hs ht => absurd (hgain.hdr hs) ht⟩

end Sys2Proof.Machine
end

section
/-! PROOFS. The padded geometry as the spec derives it (42_sample_unpacker.md R101 to R103, R110),
and the documented size that it rules out (R105, 90_conflicts.md C5). -/

namespace Sys2Proof.Machine

/-- R110 (a): no rounding is left in the stride of whole runs of 32 samples. -/
theorem byteRowWidth_eq_forty_mul (h : RawHeader) : byteRowWidth h = 40 * (widthPadded h / 32) := by
  have hwidth : 32 ∣ widthPadded h := dvd_padToMultiple _ 32
  rw [byteRowWidth, strideOf]
  omega

/-- R110 (b): 16 rows at a time, 40 bytes at a time. -/
theorem dvd_pixelRegion (h : RawHeader) : 640 ∣ heightPadded h * byteRowWidth h :=
  Nat.mul_dvd_mul (dvd_padToMultiple _ 16) ⟨_, byteRowWidth_eq_forty_mul h⟩

theorem height_le_heightPadded (h : RawHeader) : h.height.toNat ≤ heightPadded h :=
  (Nat.le_add_right _ _).trans (le_padToMultiple _ (by decide))

theorem width_le_widthPadded (h : RawHeader) : h.width.toNat ≤ widthPadded h :=
  (Nat.le_add_right _ _).trans (le_padToMultiple _ (by decide))

/-- The crop rounds down what the stride rounds up, of no more samples. -/
theorem cropOf_le_strideOf {w wp : Nat} (h : w ≤ wp) : cropOf w ≤ strideOf wp := by
  rw [cropOf, strideOf]
  omega

/-- Settles O17. -/
theorem geometryFactsHold : Obligations.GeometryFactsHold := by
  intro h
  have hstride := byteRowWidth_eq_forty_mul h
  exact ⟨hstride, by omega, by omega, Nat.mod_eq_zero_of_dvd (dvd_pixelRegion h),
    height_le_heightPadded h, cropOf_le_strideOf (width_le_widthPadded h), cropBytes_mod_five_iff h⟩

/-- The documented variant-A mode-0 size leaves the samples 6371328 bytes, no multiple of 640. -/
theorem geometrySize_ne_documented (h : RawHeader) : geometrySize h ≠ 6404096 := by
  have hregion := dvd_pixelRegion h
  rw [geometrySize, pixelOffset]
  omega

/-- Settles O23. -/
theorem variantAModeZeroNeverUnpacks : Obligations.VariantAModeZeroNeverUnpacks := by
  intro s b h hb hh hsize
  have hdocumented : b.size = 6404096 :=
    (Option.some.inj ((blockSize_mode_zero .a).symm.trans hsize)).symm
  exact execUnpack_of_size_ne hb hh (hdocumented ▸ geometrySize_ne_documented h)

end Sys2Proof.Machine
end

section
/-! PROOFS. Packing four samples into a group and its inverse (30_encoding.md R68, R69,
42_sample_unpacker.md R112), in numbers: a ten-bit sample is `4 * high + pair`. -/

namespace Sys2Proof.Machine

/-! ## The parts of a packed sample -/

theorem highBits_toNat (x : U16) : (x.extractLsb' 2 8).toNat = x.toNat / 4 % 256 := by
  rw [BitVec.extractLsb'_toNat, Nat.shiftRight_eq_div_pow]

theorem lowPair_toNat (x : U16) : (x.extractLsb' 0 2).toNat = x.toNat % 4 := by
  rw [BitVec.extractLsb'_toNat, Nat.shiftRight_zero]

/-- Two bits put below a word. -/
theorem toNat_append_pair {n : Nat} (x : BitVec n) (p : BitVec 2) :
    (x ++ p).toNat = 4 * x.toNat + p.toNat := by
  rw [BitVec.toNat_append, ← Nat.shiftLeft_add_eq_or_of_lt p.isLt, Nat.shiftLeft_eq, Nat.mul_comm]

/-- The last byte of a packed group has the four low pairs as its base-4 digits, lane 0's first. -/
theorem packGroup_b4_toNat (s0 s1 s2 s3 : U16) :
    (packGroup s0 s1 s2 s3).b4.toNat =
      4 * (4 * (4 * (s0.toNat % 4) + s1.toNat % 4) + s2.toNat % 4) + s3.toNat % 4 := by
  simp only [packGroup, toNat_append_pair, lowPair_toNat]

/-- Four digits in base 4, read back from the top. -/
theorem base_four_digits {n p0 p1 p2 p3 : Nat} (hn : n = 4 * (4 * (4 * p0 + p1) + p2) + p3)
    (h1 : p1 < 4) (h2 : p2 < 4) (h3 : p3 < 4) :
    n / 64 = p0 ∧ n / 16 % 4 = p1 ∧ n / 4 % 4 = p2 ∧ n % 4 = p3 := by
  omega

/-- The pairs of a packed group's last byte are those of its samples. -/
theorem packGroup_pairs (s0 s1 s2 s3 : U16) :
    (packGroup s0 s1 s2 s3).b4.toNat / 64 = s0.toNat % 4 ∧
      (packGroup s0 s1 s2 s3).b4.toNat / 16 % 4 = s1.toNat % 4 ∧
      (packGroup s0 s1 s2 s3).b4.toNat / 4 % 4 = s2.toNat % 4 ∧
      (packGroup s0 s1 s2 s3).b4.toNat % 4 = s3.toNat % 4 :=
  base_four_digits (packGroup_b4_toNat s0 s1 s2 s3) (Nat.mod_lt _ (by decide))
    (Nat.mod_lt _ (by decide)) (Nat.mod_lt _ (by decide))

/-! ## The two inverses -/

/-- A word put together from the parts of a ten-bit sample is that sample. -/
theorem eq_of_parts {x y : U16} {p : Nat} (hy : y.toNat = 4 * (x.extractLsb' 2 8).toNat + p)
    (hp : p = x.toNat % 4) (hx : x.toNat ≤ 1023) : y = x := by
  rw [highBits_toNat] at hy
  exact BitVec.eq_of_toNat_eq (by omega)

/-- A sample put together from a byte and a pair has them as its parts. -/
theorem parts_of_toNat {x : U16} {b : Byte} {p : Nat} (hx : x.toNat = 4 * b.toNat + p)
    (hp : p < 4) : x.extractLsb' 2 8 = b ∧ x.toNat % 4 = p := by
  have hb : b.toNat < 256 := b.isLt
  have hhigh : x.toNat / 4 % 256 = b.toNat := by omega
  exact ⟨BitVec.eq_of_toNat_eq ((highBits_toNat x).trans hhigh), by omega⟩

theorem packGroup_sample (s0 s1 s2 s3 : U16) (h0 : s0.toNat ≤ 1023) (h1 : s1.toNat ≤ 1023)
    (h2 : s2.toNat ≤ 1023) (h3 : s3.toNat ≤ 1023) :
    (packGroup s0 s1 s2 s3).sample 0 = s0 ∧ (packGroup s0 s1 s2 s3).sample 1 = s1 ∧
      (packGroup s0 s1 s2 s3).sample 2 = s2 ∧ (packGroup s0 s1 s2 s3).sample 3 = s3 := by
  obtain ⟨lane0, lane1, lane2, lane3⟩ := groupLanesAsPictured (packGroup s0 s1 s2 s3)
  obtain ⟨pair0, pair1, pair2, pair3⟩ := packGroup_pairs s0 s1 s2 s3
  exact ⟨eq_of_parts lane0 pair0 h0, eq_of_parts lane1 pair1 h1, eq_of_parts lane2 pair2 h2,
    eq_of_parts lane3 pair3 h3⟩

theorem packGroup_samples (g : ByteGroup) :
    packGroup (g.sample 0) (g.sample 1) (g.sample 2) (g.sample 3) = g := by
  obtain ⟨lane0, lane1, lane2, lane3⟩ := groupLanesAsPictured g
  have htop : g.b4.toNat / 64 < 4 := Nat.div_lt_of_lt_mul g.b4.isLt
  obtain ⟨high0, pair0⟩ := parts_of_toNat lane0 htop
  obtain ⟨high1, pair1⟩ := parts_of_toNat lane1 (Nat.mod_lt _ (by decide))
  obtain ⟨high2, pair2⟩ := parts_of_toNat lane2 (Nat.mod_lt _ (by decide))
  obtain ⟨high3, pair3⟩ := parts_of_toNat lane3 (Nat.mod_lt _ (by decide))
  have hb4 : (packGroup (g.sample 0) (g.sample 1) (g.sample 2) (g.sample 3)).b4 = g.b4 := by
    refine BitVec.eq_of_toNat_eq ?_
    rw [packGroup_b4_toNat, pair0, pair1, pair2, pair3]
    omega
  calc packGroup (g.sample 0) (g.sample 1) (g.sample 2) (g.sample 3)
      = ⟨(g.sample 0).extractLsb' 2 8, (g.sample 1).extractLsb' 2 8, (g.sample 2).extractLsb' 2 8,
          (g.sample 3).extractLsb' 2 8, g.b4⟩ := by rw [← hb4]; rfl
    _ = g := by rw [high0, high1, high2, high3]

/-- Settles O19. -/
theorem packingRoundTrips : Obligations.PackingRoundTrips :=
  ⟨packGroup_sample, packGroup_samples⟩

end Sys2Proof.Machine
end

section
/-! PROOFS. TO3D and TORGB on one grid (43_bayer_mapper.md R129): what either leaves in its own
product, that neither touches the other's inputs, and how the two images agree. -/

namespace Sys2Proof.Machine

/-! ## What each command leaves in its own product -/

section
variable {s t : State}

/-- TO3D makes the image of the grid; without one it leaves CH3 as it was (R122). -/
theorem to3d_leaves_ch3 (h : exec .to3d s = .next t) :
    t.ch3 = s.grid.elim s.ch3 fun g => some (to3dImage g) := by
  rcases execTo3d_cases s with ⟨hs, hexec⟩ | ⟨g, hs, hexec⟩ <;> rw [hs]
  · cases h.symm.trans hexec
    rfl
  · rcases to3dBody_cases g s with ⟨-, hbody⟩ | ⟨-, hbody⟩ <;>
      cases h.symm.trans (hexec.trans (congrArg finish hbody))
    rfl

/-- TORGB makes the image of an even grid and clears RGB for another; without a grid it leaves RGB
as it was (R124, R127). -/
theorem torgb_leaves_rgb (h : exec .torgb s = .next t) :
    t.rgb = s.grid.elim s.rgb fun g =>
      if g.w.toNat % 2 = 0 ∧ g.h.toNat % 2 = 0 then some (toRgbImage g) else none := by
  rcases execTorgb_cases s with ⟨hs, hexec⟩ | ⟨g, hs, hexec⟩ <;> rw [hs]
  · cases h.symm.trans hexec
    rfl
  · rcases torgbBody_cases g s with
      ⟨hw, hbody⟩ | ⟨-, hh, hbody⟩ | ⟨hw, hh, -, hbody⟩ | ⟨-, -, -, hbody⟩ <;>
      cases h.symm.trans (hexec.trans (congrArg finish hbody))
    · exact (if_neg fun heven => by omega).symm
    · exact (if_neg fun heven => by omega).symm
    · exact (if_pos ⟨hw, hh⟩).symm

/-- A TORGB that succeeds has an even grid. -/
theorem torgb_even {g : Grid} (hs : s.grid = some g) (h : exec .torgb s = .next t)
    (hok : t.err = 0x00) : g.w.toNat % 2 = 0 ∧ g.h.toNat % 2 = 0 := by
  have hw : g.w.toNat % 2 ≠ 1 := by
    intro hw
    cases h.symm.trans (execTorgb_of_odd_width hs hw)
    cases hok
  have hh : g.h.toNat % 2 ≠ 1 := by
    intro hh
    cases h.symm.trans (execTorgb_of_odd_height hs (Nat.mod_two_ne_one.1 hw) hh)
    cases hok
  exact ⟨Nat.mod_two_ne_one.1 hw, Nat.mod_two_ne_one.1 hh⟩

end

/-! ## The order of the two commands -/

/-- Settles O32: neither command writes the grid or the other's product, so each finds the
same inputs in either order. -/
theorem mapperOrderDoesNotMatter : Obligations.MapperOrderDoesNotMatter := by
  intro s a b c d ha hb hc hd
  have ownA := exec_writesOnlyOwn ha
  have ownB := exec_writesOnlyOwn hb
  have ownC := exec_writesOnlyOwn hc
  have ownD := exec_writesOnlyOwn hd
  have gridA : a.grid = s.grid := ownA.grid nofun nofun
  have gridC : c.grid = s.grid := ownC.grid nofun nofun
  have ch3B : b.ch3 = a.ch3 := ownB.ch3 nofun
  have rgbD : d.rgb = c.rgb := ownD.rgb nofun
  have ch3D : d.ch3 = a.ch3 := by
    rw [to3d_leaves_ch3 hd, to3d_leaves_ch3 ha, gridC, ownC.ch3 nofun]
  have rgbB : b.rgb = c.rgb := by
    rw [torgb_leaves_rgb hb, torgb_leaves_rgb hc, gridA, ownA.rgb nofun]
  exact ⟨ch3B.trans ch3D.symm, rgbB.trans rgbD.symm, ch3B, rgbD,
    (ownB.grid nofun nofun).trans gridA, (ownD.grid nofun nofun).trans gridC⟩

/-! ## The two images of one grid -/

theorem ch3Elem_of_image {s : State} {g : Grid} (hs : s.ch3 = some (to3dImage g)) {r c k : Nat}
    (hr : r < g.h.toNat) (hc : c < g.w.toNat) (hk : k < 3) :
    ch3Elem s r c k = some (ch3At g r c k) :=
  (ch3Elem_of_inside hs hr hc hk).trans (getElem?_tabulate3 (ch3At g) hr hc hk)

theorem rgbElem_of_image {s : State} {g : Grid} (hs : s.rgb = some (toRgbImage g)) {t u k : Nat}
    (ht : t < g.h.toNat / 2) (hu : u < g.w.toNat / 2) (hk : k < 3) :
    rgbElem s t u k = some (rgbAt g t u k) :=
  (rgbElem_of_inside hs (by simpa using ht) (by simpa using hu) hk).trans
    (getElem?_toRgbImage ht hu hk)

/-- A channel's entry at a tile offset is the tile's sample there if the offset has that colour, and
0 if not: the colour does not depend on the tile (R120, R121). -/
theorem ch3At_tile (g : Grid) (t u k : Nat) {i j : Nat} (hi : i ≤ 1) (hj : j ≤ 1) :
    ch3At g (2 * t + i) (2 * u + j) k =
      if k = chan g.order i j then tileSample g t u (i, j) else 0 := by
  have hrow : (2 * t + i) % 2 = i := by omega
  have hcol : (2 * u + j) % 2 = j := by omega
  rw [ch3At, chan_mod_two, hrow, hcol, tileSample]

theorem chan_redAt (o : CfaOrder) : chan o (redAt o).1 (redAt o).2 = 0 := by
  cases o <;> rfl

theorem chan_blueAt (o : CfaOrder) : chan o (blueAt o).1 (blueAt o).2 = 2 := by
  cases o <;> rfl

/-- Of a tile's four channel-1 entries two are its greens and two are 0. -/
theorem ch3At_green_sum (g : Grid) (t u : Nat) :
    (tileSample g t u (green1At g.order)).toNat + (tileSample g t u (green2At g.order)).toNat =
      (ch3At g (2 * t) (2 * u) 1).toNat + (ch3At g (2 * t) (2 * u + 1) 1).toNat +
        (ch3At g (2 * t + 1) (2 * u) 1).toNat + (ch3At g (2 * t + 1) (2 * u + 1) 1).toNat := by
  have h00 := ch3At_tile g t u 1 (i := 0) (j := 0) (by decide) (by decide)
  have h01 := ch3At_tile g t u 1 (i := 0) (j := 1) (by decide) (by decide)
  have h10 := ch3At_tile g t u 1 (i := 1) (j := 0) (by decide) (by decide)
  have h11 := ch3At_tile g t u 1 (i := 1) (j := 1) (by decide) (by decide)
  simp only [Nat.add_zero] at h00 h01 h10
  rw [h00, h01, h10, h11]
  cases g.order <;> simp [chan, colour, tileColours, Colour.chan, green1At, green2At]

/-- Settles O31. -/
theorem rgbAgreesWithChannelImage : Obligations.RgbAgreesWithChannelImage := by
  intro s a b g hs ha hb _ hok t u ht hu
  have hch3 : a.ch3 = some (to3dImage g) := by
    rw [to3d_leaves_ch3 ha, hs, Option.elim_some]
  have hrgb : b.rgb = some (toRgbImage g) := by
    rw [torgb_leaves_rgb hb, hs, Option.elim_some, if_pos (torgb_even hs hb hok)]
  have rgbEntry {k : Nat} (hk : k < 3) := rgbElem_of_image hrgb ht hu hk
  have ch3Entry {i j k : Nat} (hi : i ≤ 1) (hj : j ≤ 1) (hk : k < 3) :
      ch3Elem a (2 * t + i) (2 * u + j) k = some (ch3At g (2 * t + i) (2 * u + j) k) :=
    ch3Elem_of_image hch3 (by omega) (by omega) hk
  obtain ⟨redRow, redCol⟩ := tileOffsets_le_one g.order (redAt g.order) (by simp [tileOffsets])
  obtain ⟨blueRow, blueCol⟩ := tileOffsets_le_one g.order (blueAt g.order) (by simp [tileOffsets])
  refine ⟨_, _, _, _, _, _, _, _, _, rgbEntry (k := 0) (by decide), rgbEntry (k := 1) (by decide),
    rgbEntry (k := 2) (by decide), ch3Entry redRow redCol (by decide),
    ch3Entry blueRow blueCol (by decide),
    ch3Entry (i := 0) (j := 0) (by decide) (by decide) (by decide),
    ch3Entry (i := 0) (j := 1) (by decide) (by decide) (by decide),
    ch3Entry (i := 1) (j := 0) (by decide) (by decide) (by decide),
    ch3Entry (i := 1) (j := 1) (by decide) (by decide) (by decide), ?red, ?blue, ?green⟩
  case red =>
    rw [ch3At_tile g t u 0 redRow redCol, if_pos (chan_redAt g.order).symm]
    exact doubled_toNat _
  case blue =>
    rw [ch3At_tile g t u 2 blueRow blueCol, if_pos (chan_blueAt g.order).symm]
    exact doubled_toNat _
  case green => exact (sum_toNat _ _).trans (ch3At_green_sum g t u)

end Sys2Proof.Machine
end
